-- ==== Sys2Proof/Word.lean ====
section
/-! DEFINITION. The word types of the spec's notation (00_scope.md R9, R10): `uN` is `BitVec N`. -/
namespace Sys2Proof

/-- One byte of the byte source or of OUT. -/
abbrev Byte := BitVec 8

/-- A 4-bit field: a code length, OB or LC. -/
abbrev Nibble := BitVec 4

/-- A `u16`: a stored symbol, a word of the bit stream, an extension word. -/
abbrev U16 := BitVec 16

/-- A `u32`; also the bits of an `i32`, read with `BitVec.toInt`. -/
abbrev U32 := BitVec 32

/-- A 9-bit symbol, 0..511. -/
abbrev Symbol := BitVec 9

end Sys2Proof
end

