-- ==== Sys2Proof/Config.lean ====
section
/-! DEFINITION. The implementation parameters of 00_scope.md R8. The values are the spec's. -/
namespace Sys2Proof.Config

/-- `NSYM`: symbols 0..511. -/
abbrev nsym : Nat := 512

/-- `TABLE_BYTES`: the code-length table's bytes. -/
abbrev tableBytes : Nat := 256

/-- `MAX_LEN`: the largest code length. -/
abbrev maxLen : Nat := 15

/-- `ARENA_SLOTS`: the slots of the trie arena. -/
abbrev arenaSlots : Nat := 1024

/-- `MAX_INPUT`: 16 MiB. -/
abbrev maxInput : Nat := 16777216

/-- `REFILL_BITS`: the bits of one refill. -/
abbrev refillBits : Nat := 16

/-- `REFILL_THRESHOLD`: a skip that leaves fewer bits refills. -/
abbrev refillThreshold : Nat := 16

/-- `STREAM_START`: the region index of the first stream word. -/
abbrev streamStart : Nat := 256

/-- `MIN_MATCH`: added to MLEN to give the copy length. -/
abbrev minMatch : Nat := 3

/-- `LEN_ESC_BYTE`: the length code that reads an extension byte. -/
abbrev lenEscByte : Nat := 15

/-- `LEN_ESC_WORD`: the byte-derived length that reads an extension word. -/
abbrev lenEscWord : Nat := 270

/-- `OFFSET_WIDTH`: OPEN in R8 and 92 D3, so it has no body and nothing can be proved of its value.
No operation depends on it; `State.FitsOffsetWidth` (Safety.lean) says a state's OFFSET and SRC_LEN
fit it. Log 4. -/
opaque offsetWidth : Nat

end Sys2Proof.Config
end

