-- ==== Sys2Proof/Syntax.lean ====
section
/-! DEFINITION. The instructions: the four tokens of 30_encoding.md R85, one constructor per row of
spec/opcode_table.json. The extra bits and the extension bytes that follow a match's code are read
by its meaning (R87), so they are no fields here. -/
namespace Sys2Proof

/-- One token, as its decoded symbol selects it. -/
inductive Instr where
  /-- LIT, `0bbbbbbbb`: append the byte `b` (R171). -/
  | lit (b : Byte)
  /-- EOS, `100000000`: the end-of-stream marker (R172). -/
  | eos
  /-- MATCH, `1oooollll` with `llll` not 15 and the symbol not 256 (R175). -/
  | matchTok (ob lc : Nibble)
  /-- MATCH_LONG, `1oooo1111` (R176). -/
  | matchLong (ob : Nibble)
  deriving DecidableEq, Repr

end Sys2Proof
end

