-- ==== Sys2Proof/WellFormed.lean ====
section
/-! DEFINITION. Which terms of `Instr` stand for a symbol (30_encoding.md R85, R86). -/
namespace Sys2Proof

/-- A MATCH has a length code other than 15 (that is MATCH_LONG), and its fields are not both 0
(symbol 256 is EOS only: "the one combination that has no match symbol"). Every other term is
well formed. -/
def Instr.wf : Instr → Bool
  | .lit _ => true
  | .eos => true
  | .matchTok ob lc => lc != 15 && !(ob == 0 && lc == 0)
  | .matchLong _ => true

end Sys2Proof
end

