-- ==== Sys2Proof/Decode.lean ====
section
/-! DEFINITION. The symbol map of 30_encoding.md R85 and R86: the decoder, total on every stored
symbol word, and after it the encoder. A symbol is stored as a u16 in a trie leaf (10_state.md R33). -/
namespace Sys2Proof

/-- Why a stored symbol word is no instruction. -/
inductive DecodeError where
  /-- The word is above 511: the symbol space is exactly 0..511 (43 R170, 93 U5). -/
  | symbolOutOfRange
  deriving DecidableEq, Repr

/-- OB of a match symbol: `s[7:4]` (R86, 43 R173). -/
def offsetBitsField (s : Symbol) : Nibble := s.extractLsb' 4 4

/-- LC of a match symbol: `s[3:0]` (R86, 43 R173). -/
def lengthCodeField (s : Symbol) : Nibble := s.extractLsb' 0 4

/-- The token a 9-bit symbol selects: EXPAND's dispatch (43 R170). -/
def decodeSymbol (s : Symbol) : Instr :=
  if s.toNat < 256 then .lit (s.extractLsb' 0 8)
  else if s.toNat = 256 then .eos
  else if lengthCodeField s ≠ 15 then .matchTok (offsetBitsField s) (lengthCodeField s)
  else .matchLong (offsetBitsField s)

/-- The decoder of a stored symbol word. -/
def decode (w : U16) : Except DecodeError Instr :=
  if w.toNat < Config.nsym then .ok (decodeSymbol (w.setWidth 9)) else .error .symbolOutOfRange

/-- The symbol of a token, from the bit patterns of R85: the encoder. -/
def encodeSymbol : Instr → Symbol
  | .lit b => 0#1 ++ b
  | .eos => 0x100#9
  | .matchTok ob lc => 1#1 ++ ob ++ lc
  | .matchLong ob => 1#1 ++ ob ++ 15#4

/-- The encoder: the symbol word stored for a token. -/
def encode (i : Instr) : U16 := (encodeSymbol i).setWidth 16

/-- One row of spec/opcode_table.json: a symbol belongs to it if `symbol &&& mask = pattern`. -/
structure OpcodeRow where
  mnemonic : String
  pattern : Symbol
  mask : Symbol
  deriving DecidableEq, Repr

/-- The opcode table in its order of priority: EOS, then MATCH_LONG, then MATCH (the table's notes). -/
def opcodeTable : List OpcodeRow :=
  [⟨"LIT", 0x000, 0x100⟩, ⟨"EOS", 0x100, 0x1FF⟩, ⟨"MATCH_LONG", 0x10F, 0x10F⟩, ⟨"MATCH", 0x100, 0x100⟩]

/-- The mnemonic of the first row of the table that a symbol belongs to. -/
def tableMnemonic (s : Symbol) : Option String :=
  (opcodeTable.find? fun r => s &&& r.mask == r.pattern).map (·.mnemonic)

/-- The mnemonic of an instruction's own row. -/
def Instr.mnemonic : Instr → String
  | .lit _ => "LIT"
  | .eos => "EOS"
  | .matchTok _ _ => "MATCH"
  | .matchLong _ => "MATCH_LONG"

/-- The host's question: the instruction the decoder reads from a table word. The 9-bit symbol is
stored as a u16, so a word with a bit above bit 15 is no stored symbol. -/
def decodeTableWord (nbits w : Nat) : Option Instr :=
  if w % 2 ^ nbits < 2 ^ 16 then
    match decode (BitVec.ofNat 16 (w % 2 ^ nbits)) with
    | .ok i => some i
    | .error _ => none
  else none

end Sys2Proof
end

