-- ==== Sys2Proof/Machine/State.lean ====
section
/-! DEFINITION. The state of one engine instance, and of the host beside it, as plain data
(10_state.md), and the power-on reset state (70_reset_and_hazards.md R250). -/
namespace Sys2Proof.Machine

/-- PHASE (R26). STATUS is computed from it: `Phase.status` in Flags.lean. -/
inductive Phase where
  | idle
  | build
  | init
  | token
  | doneOk
  | doneErr
  deriving DecidableEq, Repr

/-- The index of an arena slot, 0..1023: 10 bits (R33, R34). -/
abbrev Slot := Fin 1024

/-- One slot of the trie arena (R33). -/
structure Node where
  /-- A u16 that holds 0..511 in a leaf. -/
  sym : U16
  leaf : Bool
  /-- `child[0]`; `none` is the spec's own absent reference. -/
  child0 : Option Slot
  /-- `child[1]`. -/
  child1 : Option Slot
  deriving DecidableEq, Repr

/-- A slot as START clears it (R33, 92 D24). -/
def Node.clear : Node := ⟨0, false, none, none⟩

/-- The arena as START leaves it: every slot clear. -/
def freshArena : Vector Node 1024 := Vector.replicate 1024 Node.clear

/-- One entry of the canonical symbol list (R30). -/
structure CslEntry where
  sym : U16
  len : Nibble
  deriving DecidableEq, Repr

/-- One move of the host (70_reset_and_hazards.md R252; log 5). -/
inductive HostEvent where
  /-- START(OFFSET, INPUT_LENGTH, SRC_LEN) (44 R200). -/
  | start (offset : Nat) (inputLength : U32) (srcLen : Nat)
  /-- The host stores one byte of the byte source. -/
  | store (addr : Nat) (b : Byte)
  /-- The host does nothing, and the engine takes its step. -/
  | tick
  deriving DecidableEq, Repr

/-- The whole state. -/
structure State where
  /-- PHASE (R26), and with it STATUS (R22). -/
  phase : Phase
  /-- ERR_CODE (R23). -/
  errCode : BitVec 4
  /-- OFFSET (R24), of OFFSET_WIDTH bits: log 4. -/
  offset : Nat
  /-- INPUT_LENGTH (R24). -/
  inputLength : U32
  /-- SRC_LEN (R24), of OFFSET_WIDTH bits: log 4. -/
  srcLen : Nat
  /-- OUT (R25, R40), first byte first. OUT_LEN is its length. -/
  out : List Byte
  /-- MASK (R27). -/
  mask : U32
  /-- AVAIL (R27), an i32: read with `toInt`. -/
  avail : U32
  /-- CURSOR (R27). -/
  cursor : U32
  /-- CL (R29). -/
  cl : Vector Nibble 512
  /-- CSL (R30). NCSL is its length. -/
  csl : List CslEntry
  /-- CODE (R31). -/
  code : U32
  /-- BITS (R31). -/
  bits : U32
  /-- NEXT_FREE (R32), 0..1024. -/
  nextFree : Fin 1025
  /-- ARENA (R33). -/
  arena : Vector Node 1024
  /-- NODE (R34). -/
  node : Slot
  /-- SYM (R34). -/
  sym : Symbol
  /-- OB (R35). -/
  ob : Nibble
  /-- LC (R35). -/
  lc : Nibble
  /-- EXTRA (R36). -/
  extra : U32
  /-- DIST (R36). -/
  dist : U32
  /-- MLEN (R37). -/
  mlen : U32
  /-- COPY_LEFT (R37). -/
  copyLeft : U32
  /-- The host's byte source (R39), canonical: see `Memory` in Ops.lean. -/
  src : List Host.Cell
  /-- The parameter OUT_CAP (00 R8, 44 R208); `none` is unbounded. No step changes it. Log 3. -/
  outCap : Option Nat
  /-- What the host does next, oldest first. The model's own field: log 5. -/
  host : List HostEvent
  deriving DecidableEq, Repr

/-- This machine has no fault: every malformed input is an ordinary reported outcome, a next state
in DONE_ERR (60 R223). -/
inductive Fault where
  deriving DecidableEq, Repr

/-- What the spec tells a model to refuse. Each is safe: the model says nothing of such a run. -/
inductive Refusal where
  /-- Raised by exec's arm of an instruction that has no meaning yet (there is none). Safe. -/
  | notModelled (mnemonic : String)
  /-- Raised by START while STATUS is BUSY: "A model refuses it" (44 R200, 93 U15). Safe. -/
  | startWhileBusy
  /-- Raised by a host store that changes a byte of the region while STATUS is BUSY: "a model refuses
  such a launch, and does not pick the old or new byte" (70 R253, 93 U14). Safe. -/
  | regionChangedWhileBusy
  /-- Raised by a TOKEN step whose leaf holds a symbol word above 511: "refuse: no such value can be
  formed" (93 U5). The builder never writes one. Safe. -/
  | symbolOutOfRange
  deriving DecidableEq, Repr

/-- Power-on reset (70 R250): PHASE is IDLE, ERR_CODE is 0, OUT is empty. The spec calls every other
register unspecified. DESIGN CHOICE, unsafe (log 2): zero, and no child in any slot. The byte source
is empty (log 1), OUT_CAP has its default (log 3), the host has nothing planned (log 5). -/
def State.reset : State where
  phase := .idle
  errCode := 0
  offset := 0
  inputLength := 0
  srcLen := 0
  out := []
  mask := 0
  avail := 0
  cursor := 0
  cl := Vector.replicate 512 0
  csl := []
  code := 0
  bits := 0
  nextFree := 0
  arena := freshArena
  node := 0
  sym := 0
  ob := 0
  lc := 0
  extra := 0
  dist := 0
  mlen := 0
  copyLeft := 0
  src := []
  outCap := none
  host := []

end Sys2Proof.Machine
end

