-- ==== Sys2Proof/Machine/Flags.lean ====
section
/-! DEFINITION. The core's flags (10_state.md R38): STATUS, ERR_CODE and the leaf flag. It has no
condition codes. -/
namespace Sys2Proof.Machine

/-- STATUS (R22). -/
inductive Status where
  | idle
  | busy
  | doneOk
  | doneErr
  deriving DecidableEq, Repr

/-- The 2-bit value of STATUS (R22). -/
def Status.toBits : Status → BitVec 2
  | .idle => 0
  | .busy => 1
  | .doneOk => 2
  | .doneErr => 3

/-- STATUS is a function of PHASE (R26). -/
def Phase.status : Phase → Status
  | .idle => .idle
  | .build => .busy
  | .init => .busy
  | .token => .busy
  | .doneOk => .doneOk
  | .doneErr => .doneErr

/-- STATUS as the host reads it. -/
def State.status (s : State) : Status := s.phase.status

/-- The error classes (60_exceptions.md R220). -/
inductive ErrClass where
  | inputTooLarge
  | truncatedTable
  | invalidHuffmanTree
  | bitUnderflow
  | invalidTrieWalk
  | invalidBackReference
  | truncatedExtraLength
  | misalignedEnd
  | outputOverflow
  deriving DecidableEq, Repr

/-- The code of an error class (R220). Code 0 is NONE. -/
def ErrClass.code : ErrClass → BitVec 4
  | .inputTooLarge => 1
  | .truncatedTable => 2
  | .invalidHuffmanTree => 3
  | .bitUnderflow => 4
  | .invalidTrieWalk => 5
  | .invalidBackReference => 6
  | .truncatedExtraLength => 7
  | .misalignedEnd => 8
  | .outputOverflow => 9

/-- `ARENA[i]` (R33). -/
def slotAt (a : Vector Node 1024) (i : Slot) : Node := a[i.val]

/-- `ARENA[i].leaf`, the flag the builder writes and the decoder's walk reads (R38). -/
def State.leafFlag (s : State) (i : Slot) : Bool := (slotAt s.arena i).leaf

end Sys2Proof.Machine
end

