-- ==== Sys2Proof/Machine/Ops.lean ====
section
/-! DEFINITION. The named operations over the byte source, OUT and the arena, and taking a failure
(20_memory.md, 60_exceptions.md R221). A rule that can fail answers `Except ErrClass`: its new state,
or the class it raises. -/
namespace Sys2Proof.Machine

/-! ### The byte source -/

/-- The byte source: cells (address, byte), addresses rising, none equal to `unlistedByte`. -/
abbrev Memory := List Host.Cell

/-- What an address with no cell reads as. DESIGN CHOICE, unsafe (log 1). -/
def unlistedByte : Byte := 0

/-- The byte at an address. -/
def Memory.read : Memory → Nat → Byte
  | [], _ => unlistedByte
  | (a, b) :: rest, addr => if addr = a then b else Memory.read rest addr

/-- A cell before the list, unless it holds what an unlisted address reads as. -/
def Memory.cons (addr : Nat) (b : Byte) (m : Memory) : Memory :=
  if b = unlistedByte then m else (addr, b) :: m

/-- The memory with one byte stored, in canonical form. -/
def Memory.write : Memory → Nat → Byte → Memory
  | [], addr, b => Memory.cons addr b []
  | (a, c) :: rest, addr, b =>
    if addr < a then Memory.cons addr b ((a, c) :: rest)
    else if addr = a then Memory.cons addr b rest
    else (a, c) :: Memory.write rest addr b

/-- The canonical form. -/
abbrev Memory.wf (m : Memory) : Prop :=
  m.Pairwise (fun p q => p.1 < q.1) ∧ ∀ p ∈ m, p.2 ≠ unlistedByte

/-- The bounds check of a region read (20 R61). -/
def readable (s : State) (i : Nat) : Bool :=
  decide (i < s.inputLength.toNat) && decide (s.offset + i < s.srcLen)

/-- Region index `i` is byte `OFFSET + i` of the byte source (20 R60), here without the check. -/
def regionByte (s : State) (i : Nat) : Byte := Memory.read s.src (s.offset + i)

/-- `MemRead(i, 1)` (00 R12, 20 R62): `none` where the check fails. -/
def memRead1 (s : State) (i : Nat) : Option Byte :=
  if readable s i then some (regionByte s i) else none

/-- A little-endian 16-bit value (20 R62). -/
def littleEndian (low high : Byte) : U16 := high ++ low

/-- `MemRead(i, 2)` (00 R12, 20 R62): both bytes are checked, and any index will do (R63). -/
def memRead2 (s : State) (i : Nat) : Option U16 :=
  match memRead1 s i, memRead1 s (i + 1) with
  | some low, some high => some (littleEndian low high)
  | _, _ => none

/-- A read that raises the class the calling rule names when it fails (20 R61). -/
def orRaise {α : Type} (r : Option α) (e : ErrClass) : Except ErrClass α :=
  match r with
  | some a => .ok a
  | none => .error e

/-! ### OUT -/

/-- OUT_LEN (10 R25). -/
def State.outLen (s : State) : Nat := s.out.length

/-- Whether one more byte fits OUT_CAP (44 R208). -/
def hasRoom (s : State) (n : Nat) : Bool :=
  match s.outCap with
  | none => true
  | some cap => decide (s.outLen + n ≤ cap)

/-- `OutAppend(b)` (20 R64, 44 R208). -/
def outAppend (b : Byte) (s : State) : Except ErrClass State :=
  if hasRoom s 1 then .ok { s with out := s.out ++ [b] } else .error .outputOverflow

/-- `OutRead(j)` (20 R65), bounds-checked: `none` outside `0 <= j < OUT_LEN`. -/
def outRead (s : State) (j : Int) : Option Byte :=
  if j < 0 then none else s.out[j.toNat]?

/-! ### The arena -/

/-- `ARENA[i].child[b]` of a slot. -/
def Node.child (n : Node) (b : Bool) : Option Slot := if b then n.child1 else n.child0

/-- A slot with `child[b]` replaced. -/
def Node.setChild (n : Node) (b : Bool) (c : Slot) : Node :=
  if b then { n with child1 := some c } else { n with child0 := some c }

/-- The arena with `ARENA[i]` replaced. -/
def setSlot (a : Vector Node 1024) (i : Slot) (n : Node) : Vector Node 1024 := a.set i.val n

/-- `ARENA[i].child[b] <- c`. -/
def State.setChild (s : State) (i : Slot) (b : Bool) (c : Slot) : State :=
  { s with arena := setSlot s.arena i ((slotAt s.arena i).setChild b c) }

/-- `ARENA[i].leaf <- v`. -/
def State.setLeaf (s : State) (i : Slot) (v : Bool) : State :=
  { s with arena := setSlot s.arena i { slotAt s.arena i with leaf := v } }

/-- `ARENA[i].sym <- v`. -/
def State.setSym (s : State) (i : Slot) (v : U16) : State :=
  { s with arena := setSlot s.arena i { slotAt s.arena i with sym := v } }

/-- Taking a slot: NEXT_FREE is checked, answered and advanced (41 R134, R135, R137). -/
def takeSlot (s : State) : Except ErrClass (Slot × State) :=
  if h : s.nextFree.val < 1024 then
    .ok (⟨s.nextFree.val, h⟩, { s with nextFree := ⟨s.nextFree.val + 1, by omega⟩ })
  else .error .invalidHuffmanTree

/-! ### Failing, succeeding, and what the host reads -/

/-- Taking a failure, the core's one exception (60 R221, 44 R207): ERR_CODE gets the class's code, OUT
is emptied, PHASE and STATUS become DONE_ERR. There is no return from it (60 R225). -/
def abort (e : ErrClass) (s : State) : State :=
  { s with errCode := e.code, out := [], phase := .doneErr }

/-- DECODE_SUCCESS (44 R206): ERR_CODE stays 0, OUT stays as built. -/
def decodeSuccess (s : State) : State := { s with phase := .doneOk }

/-- How a rule's answer ends a step: its new state, or the failure taken from the state the rule
started in. That the working registers of a failing rule stand as before it is a DESIGN CHOICE no one
can observe (60 R222): log 7. -/
def conclude (s : State) (r : Except ErrClass State) :
    Host.Outcome State Fault Refusal :=
  match r with
  | .ok t => .next t
  | .error e => .next (abort e s)

/-- The host's read of OUT (10 R25, 70 R254): the bytes unless STATUS is BUSY, when it must not read. -/
def hostReadOut (s : State) : Option (List Byte) :=
  match s.status with
  | .busy => none
  | _ => some s.out

/-- The host's read of OUT_LEN, as of OUT. -/
def hostReadOutLen (s : State) : Option Nat := (hostReadOut s).map List.length

end Sys2Proof.Machine
end

