-- ==== Sys2Proof/Machine/BitReader.lean ====
section
/-! DEFINITION. The bit_reader (40_bit_reader.md). -/
namespace Sys2Proof.Machine

/-- AVAIL as the i32 it is (10 R27). -/
def availNum (s : State) : Int := s.avail.toInt

/-- BR_INIT (R110). -/
def brInit (s : State) : Except ErrClass State := do
  let w0 ← orRaise (memRead2 s Config.streamStart) .bitUnderflow
  let w1 ← orRaise (memRead2 s (Config.streamStart + 2)) .bitUnderflow
  .ok { s with
    mask := (w0.setWidth 32 <<< 16) ||| w1.setWidth 32
    avail := 32
    cursor := BitVec.ofNat 32 (Config.streamStart + 4) }

/-- BR_PEEK(n) (R111), with the guard of R115 and the zero case of R114. -/
def brPeek (n : Nat) (s : State) : Except ErrClass U32 :=
  if n = 0 then .ok 0
  else if availNum s < 0 ∨ (n : Int) > availNum s then .error .bitUnderflow
  else .ok (s.mask >>> (32 - n))

/-- BR_REFILL (R113): the word lands just below the AVAIL valid bits (90 C2). -/
def brRefill (s : State) : Except ErrClass State := do
  let w ← orRaise (memRead2 s s.cursor.toNat) .bitUnderflow
  .ok { s with
    mask := s.mask ||| (w.setWidth 32 <<< (16 - availNum s).toNat)
    cursor := s.cursor + 2
    avail := BitVec.ofInt 32 (availNum s + Config.refillBits) }

/-- The shift half of BR_SKIP (R112). -/
def shiftWindow (n : Nat) (s : State) : State :=
  { s with mask := s.mask <<< n, avail := BitVec.ofInt 32 (availNum s - n) }

/-- BR_SKIP(n) (R112), with the guard of R115. -/
def brSkip (n : Nat) (s : State) : Except ErrClass State :=
  if (n : Int) > availNum s then .error .bitUnderflow
  else if availNum (shiftWindow n s) < Config.refillThreshold then brRefill (shiftWindow n s)
  else .ok (shiftWindow n s)

end Sys2Proof.Machine
end

