-- ==== Sys2Proof/Machine/Operands.lean ====
section
/-! DEFINITION. The operand forms of the match tokens (43_lz77_expander.md R173 to R179): the fields,
the distance from the extra bits, the length from the extension bytes. -/
namespace Sys2Proof.Machine

/-- MATCH_FIELDS (R173): the decoder has taken the fields from the symbol (30 R86). -/
def matchFields (ob lc : Nibble) (s : State) : State := { s with ob := ob, lc := lc }

/-- `DIST = (1 << OB) + EXTRA` (R174, 30 R90). -/
def distanceOf (ob : Nibble) (extra : U32) : U32 := ((1 : U32) <<< ob.toNat) + extra

/-- MATCH_DISTANCE (R174): the extra bits are peeked, not yet consumed. -/
def matchDistance (s : State) : Except ErrClass State := do
  let extra ← brPeek s.ob.toNat s
  .ok { s with extra := extra, dist := distanceOf s.ob extra }

/-- The length of a MATCH (R175). -/
def shortLength (s : State) : State := { s with mlen := s.lc.setWidth 32 }

/-- EXT_BYTE (R177). -/
def extByte (s : State) : Except ErrClass State := do
  let e1 ← orRaise (memRead1 s s.cursor.toNat) .truncatedExtraLength
  .ok { s with mlen := e1.setWidth 32 + BitVec.ofNat 32 Config.lenEscByte, cursor := s.cursor + 1 }

/-- EXT_WORD (R178): the word replaces the byte-derived length (90 C5). -/
def extWord (s : State) : Except ErrClass State := do
  let e2 ← orRaise (memRead2 s s.cursor.toNat) .truncatedExtraLength
  .ok { s with mlen := e2.setWidth 32, cursor := s.cursor + 2 }

/-- The length of a MATCH_LONG (R176): one extension byte, and the word if it gives 270. -/
def longLength (s : State) : Except ErrClass State := do
  let s ← extByte s
  if s.mlen = BitVec.ofNat 32 Config.lenEscWord then extWord s else .ok s

/-- Consuming the extra bits (R179). -/
def skipExtra (s : State) : Except ErrClass State := brSkip s.ob.toNat s

/-- The copy length of a match: `MLEN + 3` (R180, 30 R91). -/
def copyLength (mlen : U32) : U32 := mlen + BitVec.ofNat 32 Config.minMatch

end Sys2Proof.Machine
end

