-- ==== Sys2Proof/Machine/Expander.lean ====
section
/-! DEFINITION. The lz77_expander (43_lz77_expander.md): one meaning per token, over the copy loop. -/
namespace Sys2Proof.Machine

/-- One iteration of COPY's loop (R180). The read is within OUT whenever `0 <= j`, because the distance
is at least 1 (20 R65): log 13. -/
def copyByte (d : Nat) (s : State) : Except ErrClass State := do
  let b ← orRaise (outRead s ((s.outLen : Int) - d)) .invalidBackReference
  let s ← outAppend b s
  .ok { s with copyLeft := s.copyLeft - 1 }

/-- COPY's loop (R180): strictly byte by byte, so that a read sees the bytes this copy appended. -/
def copyLoop : Nat → Nat → State → Except ErrClass State
  | 0, _, s => .ok s
  | n + 1, d, s => do
    let s ← copyByte d s
    copyLoop n d s

/-- COPY(d, n) (R180). -/
def copy (d n : U32) (s : State) : Except ErrClass State :=
  copyLoop n.toNat d.toNat { s with copyLeft := n }

/-- The end of every match: the extra bits are consumed, then the bytes copied (R183 steps 4 and 5). -/
def finishMatch (s : State) : Except ErrClass State := do
  let s ← skipExtra s
  copy s.dist (copyLength s.mlen) s

/-- LIT (R171). -/
def execLit (b : Byte) (s : State) : Host.Outcome State Fault Refusal :=
  conclude s (outAppend b s)

/-- EOS (R172). -/
def execEos (s : State) : Host.Outcome State Fault Refusal :=
  conclude s (if s.cursor = s.inputLength then .ok (decodeSuccess s) else .error .misalignedEnd)

/-- MATCH (R175), in the order of R183. -/
def execMatch (ob lc : Nibble) (s : State) : Host.Outcome State Fault Refusal :=
  conclude s do
    let s ← matchDistance (matchFields ob lc s)
    finishMatch (shortLength s)

/-- MATCH_LONG (R176), in the order of R183: the extension bytes are read before the extra bits are
consumed, so that a refill reads the word after them. -/
def execMatchLong (ob : Nibble) (s : State) : Host.Outcome State Fault Refusal :=
  conclude s do
    let s ← matchDistance (matchFields ob 15 s)
    let s ← longLength s
    finishMatch s

end Sys2Proof.Machine
end

