-- ==== Sys2Proof/Machine/Dispatch.lean ====
section
/-! DEFINITION. EXPAND's dispatch (43_lz77_expander.md R170): one arm per token. -/
namespace Sys2Proof.Machine

def exec (i : Instr) (s : State) : Host.Outcome State Fault Refusal :=
  match i with
  | .lit b => Sys2Proof.Machine.execLit b s
  | .eos => Sys2Proof.Machine.execEos s
  | .matchTok ob lc => Sys2Proof.Machine.execMatch ob lc s
  | .matchLong ob => Sys2Proof.Machine.execMatchLong ob s

end Sys2Proof.Machine
end

