-- ==== Sys2Proof/Machine/SymbolDecoder.lean ====
section
/-! DEFINITION. The trie_symbol_decoder (42_trie_symbol_decoder.md): fetching an instruction. -/
namespace Sys2Proof.Machine

/-- One level of the walk (R160): the bit is consumed, with its refill, before the child is looked up
(92 D15). A child index is a `Slot`, so the range check of R160 cannot fire (log 14). -/
def tdStep (s : State) : Except ErrClass State := do
  let b ← brPeek 1 s
  let s ← brSkip 1 s
  match (slotAt s.arena s.node).child (b != 0) with
  | none => .error .invalidTrieWalk
  | some c => .ok { s with node := c }

/-- The walk, bounded: R161 lets a model bound it, and a level past the bound is InvalidTrieWalk. -/
def tdWalk : Nat → State → Except ErrClass State
  | 0, _ => .error .invalidTrieWalk
  | fuel + 1, s => do
    let s ← tdStep s
    if s.leafFlag s.node then .ok { s with sym := (slotAt s.arena s.node).sym.setWidth 9 }
    else tdWalk fuel s

/-- TD_DECODE (R160), at most 15 levels (R161). -/
def tdDecode (s : State) : Except ErrClass State := tdWalk Config.maxLen { s with node := 0 }

/-- The symbol word the walk found: the u16 of the leaf NODE stands at. -/
def fetchedWord (s : State) : U16 := (slotAt s.arena s.node).sym

end Sys2Proof.Machine
end

