-- ==== Sys2Proof/Machine/TrieBuilder.lean ====
section
/-! DEFINITION. The huffman_trie_builder (41_huffman_trie_builder.md). -/
namespace Sys2Proof.Machine

/-- The table is there: region bytes 0..255 are readable (44 R202). -/
def tableReadable (s : State) : Bool :=
  decide (Config.tableBytes ≤ s.inputLength.toNat) && decide (s.offset + 255 < s.srcLen)

/-- Format T (30 R81): the code length of symbol `j` in the table byte it lies in, the low nibble for
an even symbol, the high nibble for an odd one. -/
def tableNibble (b : Byte) (j : Nat) : Nibble :=
  if j % 2 = 0 then b.extractLsb' 0 4 else b.extractLsb' 4 4

/-- The 512 code lengths of the region's table (30 R81). -/
def tableLengths (s : State) : Vector Nibble 512 :=
  Vector.ofFn fun j => tableNibble (regionByte s (j.val / 2)) j.val

/-- HT_EXPAND (R130). START has checked the table, so the check here never fires (log 12). -/
def htExpand (s : State) : Except ErrClass State :=
  if tableReadable s then .ok { s with cl := tableLengths s }
  else .error .truncatedTable

/-- The canonical order: length ascending, then symbol ascending (R131). -/
abbrev CslEntry.before (a b : CslEntry) : Prop :=
  a.len < b.len ∨ (a.len = b.len ∧ a.sym ≤ b.sym)

/-- `CL[j]` (10 R29). -/
def codeLength (cl : Vector Nibble 512) (j : Fin 512) : Nibble := cl[j.val]

/-- The used symbols, with their lengths, in symbol order. -/
def usedEntries (cl : Vector Nibble 512) : List CslEntry :=
  (cl.toList.zipIdx.map fun p => ⟨BitVec.ofNat 16 p.2, p.1⟩).filter fun e => e.len != 0

/-- The canonical symbol list of a code-length table (R131). -/
@[irreducible] def canonicalList (cl : Vector Nibble 512) : List CslEntry :=
  (usedEntries cl).insertionSort CslEntry.before

/-- HT_SORT (R131). -/
def htSort (s : State) : State := { s with csl := canonicalList s.cl }

/-- The path of a leaf (R135): `code[bits-1:0]`, most significant bit first. Bits of the code above
bit `bits-1` are ignored (92 D11). -/
def pathBits (code : U32) (bits : Nat) : List Bool :=
  (List.range bits).map fun k => code.getLsbD (bits - 1 - k)

/-- HT_INSERT part 1 (R134): the leaf's slot. -/
def reserveLeaf (sym : U16) (s : State) : Except ErrClass (Slot × State) := do
  let (slot, s) ← takeSlot s
  .ok (slot, (s.setSym slot sym).setLeaf slot true)

/-- HT_INSERT part 2 (R135): the internal steps of the path, from a slot. An existing child is followed
even if it is a leaf (92 D12). -/
def walkPath : List Bool → Slot → State → Except ErrClass (Slot × State)
  | [], node, s => .ok (node, s)
  | b :: rest, node, s =>
    match (slotAt s.arena node).child b with
    | some c => walkPath rest c s
    | none => do
      let (slot, s) ← takeSlot s
      walkPath rest slot ((s.setChild node b slot).setLeaf slot false)

/-- HT_INSERT (R134 to R136). The zero-length guard (R138) never fires. The attach step overwrites a
child already there (92 D13). -/
def htInsert (sym : U16) (code : U32) (bits : Nat) (s : State) : Except ErrClass State := do
  let (leafSlot, s) ← reserveLeaf sym s
  if bits = 0 then .error .invalidHuffmanTree
  else
    let (node, s) ← walkPath (pathBits code bits).dropLast 0 s
    .ok (s.setChild node (code.getLsbD 0) leafSlot)

/-- The body of HT_ASSIGN's loop for one entry (R133). -/
def assignEntry (e : CslEntry) (s : State) : Except ErrClass State := do
  let s := { s with
    code := s.code <<< (e.len.toNat - s.bits.toNat)
    bits := e.len.setWidth 32 }
  let s ← htInsert e.sym s.code s.bits.toNat s
  .ok { s with code := s.code + 1 }

/-- HT_ASSIGN's loop over the remaining entries (R133). -/
def assignAll : List CslEntry → State → Except ErrClass State
  | [], s => .ok s
  | e :: rest, s => do
    let s ← assignEntry e s
    assignAll rest s

/-- HT_ASSIGN (R133). -/
def htAssign (s : State) : Except ErrClass State :=
  assignAll s.csl { s.setLeaf 0 false with nextFree := 1, code := 0, bits := 1 }

/-- The BUILD phase (44 R204): the builder, with the degenerate table's failure (R132). -/
def builder (s : State) : Except ErrClass State := do
  let s ← htExpand s
  let s := htSort s
  if s.csl.length = 0 then .error .invalidHuffmanTree
  else htAssign s

end Sys2Proof.Machine
end

