-- ==== Sys2Proof/Machine/Orchestrator.lean ====
section
/-! DEFINITION. The decode_orchestrator (44_decode_orchestrator.md): the phases of the engine, and the
host's moves. -/
namespace Sys2Proof.Machine

/-- STATUS is BUSY. -/
def State.busy (s : State) : Bool := decide (s.status = .busy)

/-- What START writes before its checks (R200). The phase it passes through is BUILD: STATUS is BUSY.
R200 and 70 R251 leave every other working register (MASK, AVAIL, CURSOR, CL, CSL, CODE, BITS, NEXT_FREE,
NODE, SYM, OB to COPY_LEFT) unspecified until its block writes it. DESIGN CHOICE, unsafe (log 22): each
keeps the value it had. -/
def startLatch (offset : Nat) (inputLength : U32) (srcLen : Nat) (s : State) : State :=
  { s with
    offset := offset
    inputLength := inputLength
    srcLen := srcLen
    errCode := 0
    out := []
    arena := freshArena
    phase := .build }

/-- START's checks, in order (R201, R202). -/
def startChecks (s : State) : Except ErrClass State :=
  if s.inputLength.toNat > Config.maxInput then .error .inputTooLarge
  else if !tableReadable s then .error .truncatedTable
  else .ok s

/-- START (R200): refused while BUSY (R200, 70 R258). -/
def hostStart (offset : Nat) (inputLength : U32) (srcLen : Nat) (s : State) :
    Host.Outcome State Fault Refusal :=
  if s.busy then .refused .startWhileBusy
  else
    conclude (startLatch offset inputLength srcLen s)
      (startChecks (startLatch offset inputLength srcLen s))

/-- The bytes the host must not change during a decode (70 R253):
`[OFFSET, OFFSET + min(INPUT_LENGTH, SRC_LEN - OFFSET))`. -/
def inRegion (s : State) (addr : Nat) : Bool :=
  decide (s.offset ≤ addr) &&
    decide (addr < s.offset + min s.inputLength.toNat (s.srcLen - s.offset))

/-- The host stores a byte of the byte source. A change of a region byte while BUSY is refused
(70 R253). A store of the byte already there changes nothing (log 9). -/
def hostStore (addr : Nat) (b : Byte) (s : State) : Host.Outcome State Fault Refusal :=
  if s.busy && inRegion s addr && (Memory.read s.src addr != b) then .refused .regionChangedWhileBusy
  else .next { s with src := Memory.write s.src addr b }

/-- The BUILD phase (R204). -/
def buildStep (s : State) : Host.Outcome State Fault Refusal :=
  conclude s do
    let t ← builder s
    .ok { t with phase := .init }

/-- The INIT phase (R204). -/
def initStep (s : State) : Host.Outcome State Fault Refusal :=
  conclude s do
    let t ← brInit s
    .ok { t with phase := .token }

/-- What the TOKEN phase does with the symbol TD_DECODE has found: it is decoded and executed. -/
def execFetched (s : State) : Host.Outcome State Fault Refusal :=
  match decode (fetchedWord s) with
  | .error .symbolOutOfRange => .refused .symbolOutOfRange
  | .ok i => exec i s

/-- The TOKEN phase (R205). -/
def tokenStep (s : State) : Host.Outcome State Fault Refusal :=
  match tdDecode s with
  | .error e => .next (abort e s)
  | .ok t => execFetched t

/-- The engine's step: one phase, or one token (R203, log 6). Outside BUSY it waits for START. -/
def engineStep (s : State) : Host.Outcome State Fault Refusal :=
  match s.phase with
  | .idle => .next s
  | .build => buildStep s
  | .init => initStep s
  | .token => tokenStep s
  | .doneOk => .next s
  | .doneErr => .next s

/-- The host's move, if it has one. -/
def hostMove (e : HostEvent) (s : State) : Host.Outcome State Fault Refusal :=
  match e with
  | .start offset inputLength srcLen => hostStart offset inputLength srcLen s
  | .store addr b => hostStore addr b s
  | .tick => engineStep s

end Sys2Proof.Machine
end

