-- ==== Sys2Proof/Machine/Step.lean ====
section
/-! DEFINITION. One step of the host and the engine together, and how a test places an instruction. -/
namespace Sys2Proof.Machine

/-- One step. The host's next event says who moves (log 5); with none left, the engine does. -/
def step (s : State) : Host.Outcome State Fault Refusal :=
  match s.host with
  | [] => engineStep s
  | e :: rest => hostMove e { s with host := rest }

/-- How many extension bytes follow a token whose later bits are all 0: E1 = 0 after a MATCH_LONG. -/
def extensionBytes (w : U16) : Nat :=
  match decode w with
  | .ok (.matchLong _) => 1
  | _ => 0

/-- A trie in which the one-bit code 0 is the symbol word `w`: root slot 0, leaf slot 1. -/
def oneSymbolArena (w : U16) : Vector Node 1024 :=
  setSlot (setSlot freshArena 0 ⟨0, false, some 1, none⟩) 1 ⟨w, true, none, none⟩

/-- `s` about to decode the symbol word `w` in a TOKEN step: the trie gives `w` the code 0, the window
holds 32 zero bits, CURSOR stands at the token's own extension bytes (zeros), where the region ends,
and the host does nothing. This engine has no program counter and reaches a token only through START,
BUILD and INIT, so all of this is what the fetch takes: log 15. -/
def State.withFetchWord (s : State) (nbits w : Nat) : State :=
  let word := BitVec.ofNat 16 (w % 2 ^ nbits)
  let length := Config.streamStart + 4 + extensionBytes word
  { s with
    phase := .token
    arena := oneSymbolArena word
    mask := 0
    avail := 32
    cursor := BitVec.ofNat 32 (Config.streamStart + 4)
    inputLength := BitVec.ofNat 32 length
    srcLen := s.offset + length
    src := Memory.write s.src (s.offset + Config.streamStart + 4) 0
    host := [] }

end Sys2Proof.Machine
end

