-- ==== Sys2Proof/Safety.lean ====
section
/-! DEFINITION. The terms the claims use: the invariants of the spec's rules, the bit stream as a list
of bits, the trie as a map from paths, and what the host observes. -/
namespace Sys2Proof.Machine

/-! ### The window and the bit stream -/

/-- The window invariant of a running decode (10 R28). -/
structure WindowOk (s : State) : Prop where
  availLow : 16 ≤ availNum s
  availHigh : availNum s ≤ 32
  zeroBelow : ∀ i : Nat, i < (32 - availNum s).toNat → s.mask.getLsbD i = false
  cursorLow : 260 ≤ s.cursor.toNat
  cursorHigh : s.cursor.toNat ≤ s.inputLength.toNat

/-- The top `n` bits of a word, most significant first. -/
def topBits (w : U32) (n : Nat) : List Bool := (List.range n).map fun k => w.getLsbD (31 - k)

/-- The bits of a stream word in the order they are consumed: bit 15 down to bit 0 (30 R83). -/
def wordBits (w : U16) : List Bool := (List.range 16).map fun k => w.getLsbD (15 - k)

/-- The bits the window holds and no token has consumed, next bit first. -/
def pendingBits (s : State) : List Bool := topBits s.mask (availNum s).toNat

/-- The value of bits read most significant first. -/
def bitsValue (l : List Bool) : Nat := l.foldl (fun v b => 2 * v + b.toNat) 0

/-- `n` bits can be skipped: the window holds them, and the word of the refill they cause, if they
cause one, is readable at CURSOR (40 R112, R113). -/
def canSkip (n : Nat) (s : State) : Bool :=
  decide ((n : Int) ≤ availNum s) &&
    (decide (16 ≤ availNum s - n) || (memRead2 s s.cursor.toNat).isSome)

/-- The next `n` bits of the window as a number: 0 when `n` is 0. -/
def nextBits (n : Nat) (s : State) : U32 := if n = 0 then 0 else s.mask >>> (32 - n)

/-! ### Matches -/

/-- The distance a match with `ob` extra bits has in `s` (43 R174). -/
def matchDist (ob : Nibble) (s : State) : Nat := 2 ^ ob.toNat + (nextBits ob.toNat s).toNat

/-- The `n` bytes a copy from `d` back appends: the last `d` bytes, repeated (43 R182). -/
def backCopy (out : List Byte) (d n : Nat) : List Byte :=
  (List.range n).map fun k => out.getD (out.length - d + k % d) 0

/-- The length operand of a MATCH_LONG in `s`: CURSOR after its extension bytes, and MLEN (30 R91). One
byte E1 other than 255 gives E1 + 15. E1 = 255 is followed by a word, and the word is the length. -/
def LongOperand (s : State) (cursor mlen : U32) : Prop :=
  (∃ e1, memRead1 s s.cursor.toNat = some e1 ∧ e1 ≠ 255 ∧
    cursor = s.cursor + 1 ∧ mlen = e1.setWidth 32 + 15) ∨
  (memRead1 s s.cursor.toNat = some 255 ∧ ∃ e2, memRead2 s (s.cursor.toNat + 1) = some e2 ∧
    cursor = s.cursor + 3 ∧ mlen = e2.setWidth 32)

/-- `s` after a match has written its operand registers and its bytes, over the window `w`. -/
def afterMatch (w s : State) (ob lc : Nibble) (mlen : U32) : State :=
  { w with
    ob := ob
    lc := lc
    extra := nextBits ob.toNat s
    dist := BitVec.ofNat 32 (matchDist ob s)
    mlen := mlen
    copyLeft := 0
    out := s.out ++ backCopy s.out (matchDist ob s) (mlen.toNat + 3) }

/-! ### The trie -/

/-- The slot a path leads to. -/
def follow (a : Vector Node 1024) : Slot → List Bool → Option Slot
  | i, [] => some i
  | i, b :: path =>
    match (slotAt a i).child b with
    | none => none
    | some c => follow a c path

/-- The symbol word whose leaf is the first leaf on a path, if that is where the path ends. -/
def lookup (a : Vector Node 1024) : Slot → List Bool → Option U16
  | _, [] => none
  | i, b :: path =>
    match (slotAt a i).child b with
    | none => none
    | some c =>
      if (slotAt a c).leaf then (if path.isEmpty then some (slotAt a c).sym else none) else lookup a c path

/-- A path passes no leaf, and its last bit, and none before it, chooses a missing child. -/
def fallsOff (a : Vector Node 1024) : Slot → List Bool → Bool
  | _, [] => false
  | i, b :: path =>
    match (slotAt a i).child b with
    | none => path.isEmpty
    | some c => !(slotAt a c).leaf && fallsOff a c path

/-- A walk along a path meets a missing child or a leaf. -/
def stops (a : Vector Node 1024) : Slot → List Bool → Bool
  | _, [] => false
  | i, b :: path =>
    match (slotAt a i).child b with
    | none => true
    | some c => (slotAt a c).leaf || stops a c path

/-- A trie the decoder can walk: symbols in range, the root no leaf (10 R33), depth at most 15 (41 R142). -/
structure ArenaOk (a : Vector Node 1024) : Prop where
  symbols : ∀ i : Slot, (slotAt a i).sym.toNat < 512
  root : (slotAt a 0).leaf = false
  depth : ∀ path : List Bool, path.length = 15 → stops a 0 path = true

/-- The arena under construction is a tree over the slots taken: each child lies one level below its
parent, in a slot taken and not the root, and a free slot has no child (41 R142). -/
def TreeArena (s : State) : Prop :=
  0 < s.nextFree.val ∧
  ∃ depth : Slot → Nat, depth 0 = 0 ∧
    (∀ (i : Slot) (b : Bool) (c : Slot), (slotAt s.arena i).child b = some c →
      depth c = depth i + 1 ∧ c ≠ 0 ∧ c.val < s.nextFree.val) ∧
    (∀ (i : Slot) (b : Bool), s.nextFree.val ≤ i.val → (slotAt s.arena i).child b = none)

/-- How many internal nodes an insertion's walk creates, from a slot along its internal steps: once a
child is missing, every later one is too (41 R135). -/
def newNodes (a : Vector Node 1024) : Slot → List Bool → Nat
  | _, [] => 0
  | i, b :: path =>
    match (slotAt a i).child b with
    | none => path.length + 1
    | some c => newNodes a c path

/-! ### The code a table defines, with no arena -/

/-- The codes of a canonical symbol list, counted along it from `code` and `bits` (41 R133). -/
def canonicalCodes : List CslEntry → Nat → Nat → List (CslEntry × Nat)
  | [], _, _ => []
  | e :: rest, code, bits =>
    (e, code * 2 ^ (e.len.toNat - bits)) ::
      canonicalCodes rest (code * 2 ^ (e.len.toNat - bits) + 1) e.len.toNat

/-- The paths of a table's codes, in the order of insertion (41 R133, R135). -/
def codePaths (cl : Vector Nibble 512) : List (List Bool) :=
  (canonicalCodes (canonicalList cl) 0 1).map fun p => pathBits (BitVec.ofNat 32 p.2) p.1.len.toNat

/-- A binary tree with nothing in its nodes. -/
inductive Shape where
  | empty
  | node (child0 child1 : Shape)
  deriving DecidableEq, Repr

/-- A node with no child: the root at the start, and every new leaf. -/
def Shape.bare : Shape := .node .empty .empty

def Shape.child : Shape → Bool → Shape
  | .empty, _ => .empty
  | .node l _, false => l
  | .node _ r, true => r

/-- The tree with `child[b]` replaced, and the node created if there was none. -/
def Shape.setChild : Shape → Bool → Shape → Shape
  | .empty, false, c => .node c .empty
  | .empty, true, c => .node .empty c
  | .node _ r, false, c => .node c r
  | .node l _, true, c => .node l c

/-- The tree after an insertion along a path. What was at its end is replaced, with all below it
(41 R136). -/
def Shape.insert : Shape → List Bool → Shape
  | _, [] => .bare
  | t, b :: path => t.setChild b ((t.child b).insert path)

/-- How many internal nodes an insertion's walk creates along its internal steps (41 R135). -/
def Shape.newNodes : Shape → List Bool → Nat
  | _, [] => 0
  | t, b :: path =>
    match t.child b with
    | .empty => path.length + 1
    | .node l r => (Shape.node l r).newNodes path

/-- How many internal nodes the walks of successive insertions create. -/
def Shape.newNodesOfAll : Shape → List (List Bool) → Nat
  | _, [] => 0
  | t, path :: rest => t.newNodes path.dropLast + (t.insert path).newNodesOfAll rest

/-- The slots a table takes: the root, a leaf a symbol, and the internal nodes the walks create
(41 R137). -/
def slotsNeeded (cl : Vector Nibble 512) : Nat :=
  1 + (codePaths cl).length + Shape.bare.newNodesOfAll (codePaths cl)

/-- The Kraft sum of a code-length table, in units of 2^-15: at most 2^15 when the codes fit (41 R140). -/
def kraftSum (cl : Vector Nibble 512) : Nat :=
  (cl.toList.map fun len => if len = 0 then 0 else 2 ^ (15 - len.toNat)).sum

/-! ### Phases -/

/-- The phases the engine's own step may lead to (44 R203). Outside BUSY it stays. -/
def Phase.engineMoves : Phase → List Phase
  | .idle => [.idle]
  | .build => [.init, .doneErr]
  | .init => [.token, .doneErr]
  | .token => [.token, .doneOk, .doneErr]
  | .doneOk => [.doneOk]
  | .doneErr => [.doneErr]

/-! ### Invariants of the whole machine -/

/-- The byte source keeps its canonical form. -/
def MemoryInv (s : State) : Prop := Memory.wf s.src

/-- In the TOKEN phase the window invariant holds (10 R28). -/
def WindowInv (s : State) : Prop := s.phase = .token → WindowOk s

/-- ERR_CODE is 0 unless STATUS is DONE_ERR, and then it is 1..9 and OUT is empty (10 R23, R25). -/
def ErrCodeInv (s : State) : Prop :=
  (s.phase ≠ .doneErr → s.errCode = 0) ∧
  (s.phase = .doneErr → 1 ≤ s.errCode.toNat ∧ s.errCode.toNat ≤ 9 ∧ s.out = [])

/-- OUT_LEN is no larger than OUT_CAP (10 R25). -/
def OutCapInv (s : State) : Prop := ∀ cap, s.outCap = some cap → s.out.length ≤ cap

/-- While BUSY, INPUT_LENGTH is within the cap and the table is readable (44 R201, R202). -/
def InputInv (s : State) : Prop :=
  s.busy = true → s.inputLength.toNat ≤ Config.maxInput ∧ tableReadable s = true

/-- The arena is clear in BUILD (10 R33), and a trie the decoder can walk afterwards. -/
def ArenaInv (s : State) : Prop :=
  (s.phase = .build → s.arena = freshArena) ∧
  (s.phase = .init ∨ s.phase = .token → ArenaOk s.arena)

/-- OFFSET and SRC_LEN fit OFFSET_WIDTH bits, whatever that is (00 R8; log 4). -/
def State.FitsOffsetWidth (s : State) : Prop :=
  s.offset < 2 ^ Config.offsetWidth ∧ s.srcLen < 2 ^ Config.offsetWidth

/-- A START the host can issue: its OFFSET and SRC_LEN have OFFSET_WIDTH bits (44 R200; log 4). -/
def HostEvent.FitsOffsetWidth : HostEvent → Prop
  | .start offset _ srcLen => offset < 2 ^ Config.offsetWidth ∧ srcLen < 2 ^ Config.offsetWidth
  | .store _ _ => True
  | .tick => True

/-- OFFSET, SRC_LEN and every START the host plans fit OFFSET_WIDTH. -/
def OffsetWidthInv (s : State) : Prop :=
  s.FitsOffsetWidth ∧ ∀ e ∈ s.host, e.FitsOffsetWidth

/-! ### What the host observes -/

/-- STATUS, ERR_CODE and OUT as the host may read them (60 R222, 70 R254). -/
structure Observation where
  status : Status
  errCode : BitVec 4
  out : Option (List Byte)
  deriving DecidableEq, Repr

/-- The observation of a state. -/
def State.observe (s : State) : Observation := ⟨s.status, s.errCode, hostReadOut s⟩

/-- The observation of a run; none where the model refuses it. -/
def observeRun (n : Nat) (s : State) : Option Observation :=
  match Host.Core.run Sys2Proof.core n s with
  | .next t => some t.observe
  | .fault _ => none
  | .refused _ => none

end Sys2Proof.Machine
end

