-- ==== Sys2Proof/Certificates/Slice0/Obligations.lean ====
section
/-! DEFINITION. The statements for the provers. Each docstring names the rules of spec/ it formalises. -/

open Sys2Proof Sys2Proof.Machine

/-! ### Encoding -/

/-- 30 R85, R86: a stored symbol word decodes to exactly one well-formed token, the one encoded by it,
and a well-formed token decodes from its own word. -/
def Obligations.DecodeInvertsEncode : Prop :=
  ∀ (w : U16) (i : Instr), decode w = .ok i ↔ (i.wf = true ∧ encode i = w)

/-- 30 R85, the opcode table: every symbol's token is that of the first row of the table it matches. -/
def Obligations.EverySymbolDecodesToItsTableRow : Prop :=
  ∀ s : Symbol, tableMnemonic s = some (decodeSymbol s).mnemonic

/-- 30 R85, R86: symbol words written out from their bit patterns. -/
def Obligations.SampleSymbolsDecode : Prop :=
  decode 0b0000000001000001#16 = .ok (.lit 0x41) ∧
  decode 0b0000000100000000#16 = .ok .eos ∧
  decode 0b0000000100000001#16 = .ok (.matchTok 0 1) ∧
  decode 0b0000000111111110#16 = .ok (.matchTok 15 14) ∧
  decode 0b0000000100001111#16 = .ok (.matchLong 0) ∧
  decode 0b0000000111111111#16 = .ok (.matchLong 15) ∧
  decode 0b0000001000000000#16 = .error .symbolOutOfRange

/-- 30 R90: each distance 1..65535 has exactly one encoding, and `ob` extra bits give the distances
2^ob .. 2^(ob+1) - 1. -/
def Obligations.EachDistanceHasOneEncoding : Prop :=
  (∀ d : Nat, 1 ≤ d → d ≤ 65535 → ∃! p : Nibble × U32,
    p.2.toNat < 2 ^ p.1.toNat ∧ (distanceOf p.1 p.2).toNat = d) ∧
  (∀ (ob : Nibble) (extra : U32), extra.toNat < 2 ^ ob.toNat →
    2 ^ ob.toNat ≤ (distanceOf ob extra).toNat ∧ (distanceOf ob extra).toNat < 2 ^ (ob.toNat + 1))

/-! ### Fetching a token -/

/-- 44 R205: in the TOKEN phase the engine's step is the meaning of the token that the word found by
the walk decodes to, in the state after the walk. Where the walk fails, the step takes the failure of the
walk's class (44 R203, 60 R221, R224); that the working registers then stand as before the walk is the
model's choice (log 7). The whole step is the engine's, with no host event left or at a tick (the model's
own schedule, log 5). -/
def Obligations.StepExecutesTheDecodedToken : Prop :=
  ∀ s : State, s.phase = .token →
    (∀ (t : State) (i : Instr), tdDecode s = .ok t → decode (fetchedWord t) = .ok i →
      engineStep s = exec i t ∧ (s.host = [] → step s = exec i t) ∧
      step { s with host := .tick :: s.host } = exec i t) ∧
    (∀ e : ErrClass, tdDecode s = .error e →
      engineStep s = .next (abort e s) ∧ (s.host = [] → step s = .next (abort e s)) ∧
      step { s with host := .tick :: s.host } = .next (abort e s))

/-- 93 U5: a leaf that holds a word above 511 is refused by name. -/
def Obligations.SymbolAbove511IsRefused : Prop :=
  ∀ s t : State, s.phase = .token → s.host = [] → tdDecode s = .ok t → 512 ≤ (fetchedWord t).toNat →
    step s = .refused .symbolOutOfRange

/-- 42 R160, 92 D15: one level of the walk. Where the next bit cannot be skipped it fails with
BitUnderflow, whatever the child. Else the bit chooses the child: a missing one is InvalidTrieWalk, and
NODE becomes an existing one. -/
def Obligations.WalkLevelSkipsThenLooksUp : Prop :=
  ∀ s : State,
    (canSkip 1 s = false → tdStep s = .error .bitUnderflow) ∧
    (canSkip 1 s = true → ∃ w, brSkip 1 s = .ok w ∧
      ((slotAt s.arena s.node).child (s.mask.getLsbD 31) = none → tdStep s = .error .invalidTrieWalk) ∧
      ∀ c, (slotAt s.arena s.node).child (s.mask.getLsbD 31) = some c → tdStep s = .ok { w with node := c })

/-- 42 R160 to R162: a walk that succeeds consumes, most significant bit first, exactly the bits of a
path whose first leaf ends it and holds the symbol found. It loads at most one word, the one at CURSOR,
and changes nothing but the window, NODE and SYM. -/
def Obligations.WalkConsumesExactlyOneCode : Prop :=
  ∀ s t : State, WindowOk s → tdDecode s = .ok t →
    ∃ (path : List Bool) (words : List U16),
      1 ≤ path.length ∧ path.length ≤ 15 ∧
      lookup s.arena 0 path = some (fetchedWord t) ∧
      path ++ pendingBits t = pendingBits s ++ words.flatMap wordBits ∧
      (words = [] ∨ ∃ w, words = [w] ∧ memRead2 s s.cursor.toNat = some w) ∧
      t.cursor.toNat = s.cursor.toNat + 2 * words.length ∧
      t = { s with mask := t.mask, avail := t.avail, cursor := t.cursor, node := t.node,
                   sym := (fetchedWord t).setWidth 9 }

/-- 42 R160: the walk succeeds whenever the next bits of the window are the path of a leaf and can be
skipped, and it finds that leaf's symbol. -/
def Obligations.WalkFindsTheSymbolOfTheNextBits : Prop :=
  ∀ (s : State) (path : List Bool) (w : U16), WindowOk s → path.length ≤ 15 →
    lookup s.arena 0 path = some w → path <+: pendingBits s → canSkip path.length s = true →
    ∃ t, tdDecode s = .ok t ∧ fetchedWord t = w

/-- 42 R160, 30 R93, 92 D15: a walk whose next bits lead to a missing child raises InvalidTrieWalk, where
they can be skipped. Where they cannot, it raises BitUnderflow, and so does a walk to a leaf. -/
def Obligations.WalkToAMissingChildFails : Prop :=
  ∀ (s : State) (path : List Bool), WindowOk s → path.length ≤ 15 → path <+: pendingBits s →
    (fallsOff s.arena 0 path = true → canSkip path.length s = true →
      tdDecode s = .error .invalidTrieWalk) ∧
    (fallsOff s.arena 0 path = true ∨ (lookup s.arena 0 path).isSome = true →
      canSkip path.length s = false → tdDecode s = .error .bitUnderflow)

/-- 42 R161: with a trie of depth at most 15, the bound on the walk never cuts it short. -/
def Obligations.WalkBoundIsNeverReached : Prop :=
  ∀ (s : State) (fuel : Nat), ArenaOk s.arena → 15 ≤ fuel →
    tdWalk fuel { s with node := 0 } = tdDecode s

/-! ### The tokens -/

/-- 43 R171: LIT appends its byte and changes nothing else, where OUT_CAP leaves room (always, when it
is unbounded). Without room it is OutputOverflow (44 R208), a class of the spec's own choice (92 D16); that
the working registers then stand as before is the model's (log 7). -/
def Obligations.LitAppendsItsByte : Prop :=
  ∀ (b : Byte) (s : State),
    (s.outCap = none ∨ (∃ cap, s.outCap = some cap ∧ s.out.length + 1 ≤ cap) →
      exec (.lit b) s = .next { s with out := s.out ++ [b] }) ∧
    (∀ cap, s.outCap = some cap → cap < s.out.length + 1 →
      exec (.lit b) s = .next (abort .outputOverflow s))

/-- 43 R172, 44 R206, R207: EOS succeeds exactly where CURSOR is INPUT_LENGTH, and then only PHASE (and with
it STATUS) changes; elsewhere it is MisalignedEnd. That the working registers keep their values once the
decode has ended, where 10 R21 discards them, is the model's choice: log 22 after a success, log 7 after a
failure. -/
def Obligations.EosSucceedsExactlyAtTheEnd : Prop :=
  ∀ s : State,
    (s.cursor = s.inputLength → exec .eos s = .next { s with phase := .doneOk }) ∧
    (s.cursor ≠ s.inputLength → exec .eos s = .next (abort .misalignedEnd s))

/-- 43 R173 to R175, R179, R180: a MATCH whose extra bits can be skipped, whose source lies in OUT and
whose bytes fit completes: OB, LC, EXTRA, DIST and MLEN are its operands, COPY_LEFT is 0, the window is
the one after the skip, OUT has the copied bytes after it, and nothing else changes. -/
def Obligations.MatchCopiesItsBytes : Prop :=
  ∀ (ob lc : Nibble) (s : State), (Instr.matchTok ob lc).wf = true → canSkip ob.toNat s = true →
    matchDist ob s ≤ s.out.length → hasRoom s (lc.toNat + 3) = true →
    ∃ w, brSkip ob.toNat s = .ok w ∧
      exec (.matchTok ob lc) s = .next (afterMatch w s ob lc (lc.setWidth 32))

/-- 43 R176 to R180: a MATCH_LONG whose extension bytes are readable, whose extra bits can then be
skipped, whose source lies in OUT and whose bytes fit completes, with its length from E1 or from E2. The
skip is made with CURSOR past the extension bytes. -/
def Obligations.MatchLongCopiesItsBytes : Prop :=
  ∀ (ob : Nibble) (s : State) (cursor mlen : U32), LongOperand s cursor mlen →
    canSkip ob.toNat { s with cursor := cursor } = true →
    matchDist ob s ≤ s.out.length → hasRoom s (mlen.toNat + 3) = true →
    ∃ w, brSkip ob.toNat { s with cursor := cursor } = .ok w ∧
      exec (.matchLong ob) s = .next (afterMatch w s ob 15 mlen)

/-- 43 R175, R183: the failures of a MATCH, in order. That the working registers stand as before is the
model's choice (log 7). -/
def Obligations.MatchFailsInOrder : Prop :=
  ∀ (ob lc : Nibble) (s : State), (Instr.matchTok ob lc).wf = true →
    (canSkip ob.toNat s = false → exec (.matchTok ob lc) s = .next (abort .bitUnderflow s)) ∧
    (canSkip ob.toNat s = true → s.out.length < matchDist ob s →
      exec (.matchTok ob lc) s = .next (abort .invalidBackReference s)) ∧
    (canSkip ob.toNat s = true → matchDist ob s ≤ s.out.length → hasRoom s (lc.toNat + 3) = false →
      exec (.matchTok ob lc) s = .next (abort .outputOverflow s))

/-- 43 R176, R183: the failures of a MATCH_LONG, in order, for a window that holds the extra bits (as
10 R28 says it always does). That the working registers stand as before is the model's choice (log 7). -/
def Obligations.MatchLongFailsInOrder : Prop :=
  ∀ (ob : Nibble) (s : State), (ob.toNat : Int) ≤ availNum s →
    ((memRead1 s s.cursor.toNat = none ∨
        (memRead1 s s.cursor.toNat = some 255 ∧ memRead2 s (s.cursor.toNat + 1) = none)) →
      exec (.matchLong ob) s = .next (abort .truncatedExtraLength s)) ∧
    ∀ cursor mlen : U32, LongOperand s cursor mlen →
      (canSkip ob.toNat { s with cursor := cursor } = false →
        exec (.matchLong ob) s = .next (abort .bitUnderflow s)) ∧
      (canSkip ob.toNat { s with cursor := cursor } = true → s.out.length < matchDist ob s →
        exec (.matchLong ob) s = .next (abort .invalidBackReference s)) ∧
      (canSkip ob.toNat { s with cursor := cursor } = true → matchDist ob s ≤ s.out.length →
        hasRoom s (mlen.toNat + 3) = false →
        exec (.matchLong ob) s = .next (abort .outputOverflow s))

/-- 10 R38, 20 R70: no token changes the byte source, the launch arguments, the builder's registers, the
trie, NODE, SYM or the host's plans; and LIT and EOS leave the window and the match registers alone. For a
token that ends the decode, after which 10 R21 discards the working structures, keeping them is the model's
choice: log 22 after a success, log 7 after a failure. -/
def Obligations.TokensLeaveTheRestUnchanged : Prop :=
  ∀ (i : Instr) (s t : State), exec i s = .next t →
    t = { s with phase := t.phase, errCode := t.errCode, out := t.out, mask := t.mask, avail := t.avail,
                 cursor := t.cursor, ob := t.ob, lc := t.lc, extra := t.extra, dist := t.dist,
                 mlen := t.mlen, copyLeft := t.copyLeft } ∧
    (∀ a, Memory.read t.src a = Memory.read s.src a) ∧
    ((i = .eos ∨ ∃ b, i = .lit b) →
      t = { s with phase := t.phase, errCode := t.errCode, out := t.out })

/-- 20 R64, 44 R207: a token of a running decode either fails, and OUT is empty, or OUT keeps every byte
it had. -/
def Obligations.OutputOnlyGrowsUnlessTheDecodeFails : Prop :=
  ∀ (i : Instr) (s t : State), s.phase = .token → exec i s = .next t →
    (t.phase = .doneErr ∧ t.out = []) ∨
    (t.phase ≠ .doneErr ∧ s.out.length ≤ t.out.length ∧
      ∀ j, j < s.out.length → t.out[j]? = s.out[j]?)

/-- 43 R182: iteration k of a copy appends `OUT[L0 - d + (k mod d)]`, and the copy changes nothing but
OUT and COPY_LEFT. -/
def Obligations.CopyRepeatsThePattern : Prop :=
  ∀ (d n : U32) (s : State), 1 ≤ d.toNat → d.toNat ≤ s.out.length → hasRoom s n.toNat = true →
    ∃ t, copy d n s = .ok t ∧ t = { s with out := t.out, copyLeft := 0 } ∧
      t.out.length = s.out.length + n.toNat ∧
      (∀ j, j < s.out.length → t.out[j]? = s.out[j]?) ∧
      ∀ k, k < n.toNat →
        t.out[s.out.length + k]? = s.out[s.out.length - d.toNat + k % d.toNat]?

/-- 43 R181, which the spec derives from R180: a copy raises InvalidBackReference if and only if
OUT_LEN < DIST when it starts. -/
def Obligations.BackReferenceFailsExactlyBeforeTheStart : Prop :=
  ∀ (d n : U32) (s : State), 1 ≤ d.toNat → 1 ≤ n.toNat →
    (copy d n s = .error .invalidBackReference ↔ s.out.length < d.toNat)

/-- 44 R208: with OUT_CAP unbounded, no step of a decode raises OutputOverflow. -/
def Obligations.UnboundedOutputNeverOverflows : Prop :=
  ∀ s t : State, s.outCap = none → s.errCode = 0 → engineStep s = .next t →
    t.errCode ≠ ErrClass.outputOverflow.code

/-! ### The bit reader -/

/-- 40 R110, 44 R203, R204: the init loads two words, the first into the high half, and touches only the
window, and the engine's step in INIT then leads to TOKEN. Where one of the four bytes cannot be read it is
BitUnderflow (the spec's own choice of class, 92 D8), and so is the step; that the working registers then
stand as before is the model's choice (log 7). -/
def Obligations.InitLoadsTheFirstTwoWords : Prop :=
  ∀ s : State,
    (∀ w0 w1, memRead2 s 256 = some w0 → memRead2 s 258 = some w1 →
      ∃ t, brInit s = .ok t ∧ t.mask.toNat = w0.toNat * 65536 + w1.toNat ∧ availNum t = 32 ∧
        t.cursor.toNat = 260 ∧ pendingBits t = wordBits w0 ++ wordBits w1 ∧
        t = { s with mask := t.mask, avail := t.avail, cursor := t.cursor } ∧
        (s.phase = .init → engineStep s = .next { t with phase := .token })) ∧
    (memRead2 s 256 = none ∨ memRead2 s 258 = none →
      brInit s = .error .bitUnderflow ∧
      (s.phase = .init → engineStep s = .next (abort .bitUnderflow s)))

/-- 40 R111, 30 R84: a peek answers the next n bits, most significant first. -/
def Obligations.PeekReadsTheNextBits : Prop :=
  ∀ (n : Nat) (s : State), (n : Int) ≤ availNum s → availNum s ≤ 32 →
    ∃ v, brPeek n s = .ok v ∧ v.toNat = bitsValue ((pendingBits s).take n)

/-- 40 R114: a peek of 0 bits answers 0 in every state, and a match with OB = 0 has DIST = 1. -/
def Obligations.PeekOfZeroBitsIsZero : Prop :=
  (∀ s : State, brPeek 0 s = .ok 0) ∧
  ∀ s : State, s.ob = 0 → ∃ t, matchDistance s = .ok t ∧ t.extra = 0 ∧ t.dist = 1

/-- 40 R112, R113, 30 R83: a skip drops n bits. Where fewer than 16 are left it loads the word at CURSOR
behind them, bit 15 first, and CURSOR advances by 2; where that word cannot be read it is BitUnderflow. It
touches only the window. -/
def Obligations.SkipDropsBitsAndRefills : Prop :=
  ∀ (n : Nat) (s : State), WindowOk s → n ≤ 15 →
    (16 ≤ availNum s - n → ∃ t, brSkip n s = .ok t ∧ pendingBits t = (pendingBits s).drop n ∧
      availNum t = availNum s - n ∧ t = { s with mask := t.mask, avail := t.avail }) ∧
    (availNum s - n < 16 → ∀ w, memRead2 s s.cursor.toNat = some w →
      ∃ t, brSkip n s = .ok t ∧ pendingBits t = (pendingBits s).drop n ++ wordBits w ∧
        availNum t = availNum s - n + 16 ∧ t.cursor.toNat = s.cursor.toNat + 2 ∧
        t = { s with mask := t.mask, avail := t.avail, cursor := t.cursor }) ∧
    (availNum s - n < 16 → memRead2 s s.cursor.toNat = none → brSkip n s = .error .bitUnderflow)

/-- 40 R116, 10 R28: init establishes the window invariant, and every skip of at most 15 bits keeps it. -/
def Obligations.SkipKeepsTheWindowInvariant : Prop :=
  (∀ s t : State, brInit s = .ok t → WindowOk t) ∧
  ∀ (n : Nat) (s t : State), WindowOk s → n ≤ 15 → brSkip n s = .ok t → WindowOk t

/-! ### The byte source -/

/-- 20 R61, R62: a byte of the region is read exactly where the bounds check passes, at OFFSET + i; a
16-bit value is two such bytes, the low one first. -/
def Obligations.RegionReadsAreBoundsChecked : Prop :=
  ∀ (s : State) (i : Nat),
    (∀ b, memRead1 s i = some b ↔
      (i < s.inputLength.toNat ∧ s.offset + i < s.srcLen) ∧ b = Memory.read s.src (s.offset + i)) ∧
    (∀ w : U16, memRead2 s i = some w ↔ ∃ low high, memRead1 s i = some low ∧
      memRead1 s (i + 1) = some high ∧ w.toNat = low.toNat + 256 * high.toNat)

/-- The model's canonical form (log 1): two canonical memories that read alike everywhere are equal. -/
def Obligations.CanonicalMemoriesAreEqualWhenTheyReadAlike : Prop :=
  ∀ m n : Memory, Memory.wf m → Memory.wf n → (∀ a, Memory.read m a = Memory.read n a) → m = n

/-- 70 R253: a host store that changes a byte of the region of a running decode is refused. Any other
store changes that one byte and nothing else (log 9 for the store of an equal byte). -/
def Obligations.HostStoresAreRefusedInTheRunningRegion : Prop :=
  ∀ (s : State) (a : Nat) (b : Byte) (rest : List HostEvent), MemoryInv s → s.host = .store a b :: rest →
    (s.busy = true → s.offset ≤ a →
      a < s.offset + min s.inputLength.toNat (s.srcLen - s.offset) → Memory.read s.src a ≠ b →
      step s = .refused .regionChangedWhileBusy) ∧
    (s.busy = false ∨ a < s.offset ∨ s.offset + min s.inputLength.toNat (s.srcLen - s.offset) ≤ a ∨
        Memory.read s.src a = b →
      ∃ t, step s = .next t ∧ t = { s with src := t.src, host := rest } ∧ Memory.read t.src a = b ∧
        ∀ x, x ≠ a → Memory.read t.src x = Memory.read s.src x)

/-! ### The trie builder -/

/-- 30 R81, 41 R130: byte k of the table holds the lengths of symbol 2k in its low nibble and of symbol
2k+1 in its high nibble; nothing but CL changes. -/
def Obligations.ExpandSplitsTheTableBytes : Prop :=
  ∀ s : State, tableReadable s = true →
    ∃ t, htExpand s = .ok t ∧ t = { s with cl := t.cl } ∧
      ∀ (k : Nat) (_ : k < 256),
        (codeLength t.cl ⟨2 * k, by omega⟩).toNat = (regionByte s k).toNat % 16 ∧
        (codeLength t.cl ⟨2 * k + 1, by omega⟩).toNat = (regionByte s k).toNat / 16

/-- 41 R131: CSL lists exactly the symbols with a nonzero length, by length and then by symbol. -/
def Obligations.SortListsTheUsedSymbolsInOrder : Prop :=
  ∀ s : State,
    (htSort s).csl.Pairwise (fun a b => a.len < b.len ∨ (a.len = b.len ∧ a.sym < b.sym)) ∧
    ∀ e : CslEntry, e ∈ (htSort s).csl ↔
      ∃ j : Fin 512, codeLength s.cl j ≠ 0 ∧ e = ⟨BitVec.ofNat 16 j.val, codeLength s.cl j⟩

/-- 41 R132: a table of only zero lengths fails with InvalidHuffmanTree. The class is the spec's own choice
(92 D14), and that CL and CSL stand as before is the model's (log 7). -/
def Obligations.TableOfZeroLengthsFails : Prop :=
  ∀ s : State, s.phase = .build → tableReadable s = true →
    (∀ k, k < 256 → regionByte s k = 0) →
    engineStep s = .next (abort .invalidHuffmanTree s)

/-- 41 R134 to R136: after an insertion the path of the code leads to a leaf with the symbol, and the
arena is still a tree over the slots taken. -/
def Obligations.InsertedPathLeadsToItsLeaf : Prop :=
  ∀ (sym : U16) (code : U32) (bits : Nat) (s t : State), TreeArena s → 1 ≤ bits → bits ≤ 15 →
    htInsert sym code bits s = .ok t →
    TreeArena t ∧ ∃ c, follow t.arena 0 (pathBits code bits) = some c ∧
      (slotAt t.arena c).leaf = true ∧ (slotAt t.arena c).sym = sym

/-- 41 R134, R135, R137, R138: from an arena that is a tree over the slots taken, an insertion takes a
slot for its leaf and one for each internal node its walk creates: it succeeds exactly where they are
free, and fails with InvalidHuffmanTree otherwise. From any state, as many free slots as the path has bits
are enough, it fails where no slot is free or the path is empty, and it raises no other class. -/
def Obligations.InsertFailsOnlyWithoutASlot : Prop :=
  ∀ (sym : U16) (code : U32) (bits : Nat) (s : State),
    (TreeArena s → 1 ≤ bits →
      (s.nextFree.val + 1 + newNodes s.arena 0 (pathBits code bits).dropLast ≤ 1024 →
        ∃ t, htInsert sym code bits s = .ok t ∧
          t.nextFree.val = s.nextFree.val + 1 + newNodes s.arena 0 (pathBits code bits).dropLast) ∧
      (1024 < s.nextFree.val + 1 + newNodes s.arena 0 (pathBits code bits).dropLast →
        htInsert sym code bits s = .error .invalidHuffmanTree)) ∧
    (1 ≤ bits → s.nextFree.val + bits ≤ 1024 → ∃ t, htInsert sym code bits s = .ok t) ∧
    (s.nextFree.val = 1024 ∨ bits = 0 → htInsert sym code bits s = .error .invalidHuffmanTree) ∧
    ∀ e, htInsert sym code bits s = .error e → e = .invalidHuffmanTree

/-- 41 R141, R133, 30 R82, 42 R162: where the lengths' Kraft sum is at most 1 and the trie is built, every
used symbol is found by a path of exactly its length, and that path is the canonical code counted along
CSL, most significant bit first. (R141 is marked as general knowledge there.) -/
def Obligations.EveryUsedSymbolHasACodeOfItsLength : Prop :=
  ∀ s t : State, s.arena = freshArena → builder s = .ok t → kraftSum t.cl ≤ 2 ^ 15 →
    ∀ j : Fin 512, codeLength t.cl j ≠ 0 →
      ∃ (code : Nat) (path : List Bool),
        (⟨BitVec.ofNat 16 j.val, codeLength t.cl j⟩, code) ∈ canonicalCodes t.csl 0 1 ∧
        path = pathBits (BitVec.ofNat 32 code) (codeLength t.cl j).toNat ∧
        path.length = (codeLength t.cl j).toNat ∧ bitsValue path = code ∧
        lookup t.arena 0 path = some (BitVec.ofNat 16 j.val)

/-- 41 R137, R139, R140, 44 R203, R204: a table with a used symbol, over-subscribed or not, leads from
BUILD to INIT exactly where the root, its leaves and the internal nodes its walks create fit 1024 slots;
the step is then the builder's, its trie and all, and CL, CSL and NEXT_FREE are the table's. Otherwise the
decode fails with InvalidHuffmanTree. For an over-subscribed table this rests on the spec's own readings of
the walk and the attach step (92 D11 to D13, log 16). -/
def Obligations.BuildCompletesExactlyWhereTheTrieFits : Prop :=
  ∀ s : State, s.phase = .build → s.arena = freshArena → tableReadable s = true →
    (∃ j : Fin 512, codeLength (tableLengths s) j ≠ 0) →
    (slotsNeeded (tableLengths s) ≤ 1024 →
      ∃ t u, engineStep s = .next t ∧ builder s = .ok u ∧ t = { u with phase := .init } ∧
        t.phase = .init ∧ t.errCode = s.errCode ∧ t.out = s.out ∧ t.cl = tableLengths s ∧
        t.csl = canonicalList (tableLengths s) ∧ t.nextFree.val = slotsNeeded (tableLengths s)) ∧
    (1024 < slotsNeeded (tableLengths s) →
      ∃ t, engineStep s = .next t ∧ t.phase = .doneErr ∧
        t.errCode = ErrClass.invalidHuffmanTree.code ∧ t.out = [])

/-! ### START, phases, failures, reset -/

/-- 44 R200: START outside BUSY, of a length within the cap and with the table readable, latches its
arguments, clears ERR_CODE, OUT and the arena, and enters BUILD. That every other working register keeps
its value is the model's choice (log 22). -/
def Obligations.StartLaunchesADecode : Prop :=
  ∀ (s : State) (offset : Nat) (len : U32) (srcLen : Nat) (rest : List HostEvent),
    s.host = .start offset len srcLen :: rest → s.busy = false →
    256 ≤ len.toNat → len.toNat ≤ 16777216 → offset + 255 < srcLen →
    step s = .next { s with
      offset := offset, inputLength := len, srcLen := srcLen, errCode := 0, out := [],
      arena := freshArena, phase := .build, host := rest }

/-- 44 R201: a declared length above 16777216 fails with InputTooLarge, whatever the byte source, and no
other length does. -/
def Obligations.StartFailsAboveTheInputCap : Prop :=
  ∀ (s : State) (offset : Nat) (len : U32) (srcLen : Nat) (rest : List HostEvent),
    s.host = .start offset len srcLen :: rest → s.busy = false →
    (16777216 < len.toNat → ∃ t, step s = .next t ∧ t.status = .doneErr ∧
      t.errCode = ErrClass.inputTooLarge.code ∧ t.out = [] ∧ t.src = s.src) ∧
    (len.toNat ≤ 16777216 → ∃ t, step s = .next t ∧ t.errCode ≠ ErrClass.inputTooLarge.code)

/-- 44 R202: where the 256 table bytes are not readable, START fails with TruncatedTable. -/
def Obligations.StartFailsWithoutTheTable : Prop :=
  ∀ (s : State) (offset : Nat) (len : U32) (srcLen : Nat) (rest : List HostEvent),
    s.host = .start offset len srcLen :: rest → s.busy = false → len.toNat ≤ 16777216 →
    (len.toNat < 256 ∨ srcLen ≤ offset + 255) →
    ∃ t, step s = .next t ∧ t.status = .doneErr ∧ t.errCode = ErrClass.truncatedTable.code ∧ t.out = []

/-- 44 R200, 70 R258: START while BUSY is refused. -/
def Obligations.StartWhileBusyIsRefused : Prop :=
  ∀ (s : State) (offset : Nat) (len : U32) (srcLen : Nat) (rest : List HostEvent),
    s.host = .start offset len srcLen :: rest → s.status = .busy → step s = .refused .startWhileBusy

/-- 44 R203: the engine's own step makes only the transitions of the table, and outside BUSY it changes
nothing (the model's choice for the working registers: log 22); START leads from a phase outside BUSY to
BUILD or DONE_ERR; a host store leaves PHASE alone. -/
def Obligations.PhasesMoveAsTheTableSays : Prop :=
  (∀ s t : State, engineStep s = .next t → t.phase ∈ s.phase.engineMoves) ∧
  (∀ s : State, s.busy = false → engineStep s = .next s) ∧
  (∀ (s t : State) (offset : Nat) (len : U32) (srcLen : Nat),
    hostMove (.start offset len srcLen) s = .next t →
      s.phase ∈ [Phase.idle, .doneOk, .doneErr] ∧ t.phase ∈ [Phase.build, .doneErr]) ∧
  (∀ (s t : State) (a : Nat) (b : Byte), hostMove (.store a b) s = .next t → t.phase = s.phase)

/-- 44 R206, 43 R172: a decode succeeds only in a TOKEN step whose token is EOS with CURSOR = INPUT_LENGTH,
and that step changes nothing after the walk but PHASE. That the working registers keep their values once
the decode has ended, where 10 R21 discards them, is the model's choice (log 22). -/
def Obligations.OnlyEosAtTheEndSucceeds : Prop :=
  ∀ s t : State, s.busy = true → engineStep s = .next t → t.status = .doneOk →
    s.phase = .token ∧ ∃ u, tdDecode s = .ok u ∧ decode (fetchedWord u) = .ok .eos ∧
      u.cursor = u.inputLength ∧ t = { u with phase := .doneOk }

/-- 60 R221, 44 R207: the failure completion sets ERR_CODE to the class's code, empties OUT, makes OUT_LEN
0 and PHASE and STATUS DONE_ERR, and writes nothing more. That the working registers keep their values,
where 10 R21 discards them, is the model's choice (log 7). -/
def Obligations.FailureCompletionEffect : Prop :=
  ∀ (e : ErrClass) (s : State),
    (abort e s).errCode = e.code ∧ (abort e s).out = [] ∧ (abort e s).outLen = 0 ∧
    (abort e s).phase = .doneErr ∧ (abort e s).status = .doneErr ∧
    hostReadOut (abort e s) = some [] ∧
    abort e s = { s with errCode := e.code, out := [], phase := .doneErr }

/-- 60 R220, 10 R22: the error codes and the values of STATUS. -/
def Obligations.CodesOfErrorsAndStatus : Prop :=
  [ErrClass.inputTooLarge, .truncatedTable, .invalidHuffmanTree, .bitUnderflow, .invalidTrieWalk,
    .invalidBackReference, .truncatedExtraLength, .misalignedEnd, .outputOverflow].map ErrClass.code =
    [1, 2, 3, 4, 5, 6, 7, 8, 9] ∧
  [Status.idle, .busy, .doneOk, .doneErr].map Status.toBits = [0, 1, 2, 3]

/-- 10 R26: STATUS is the function of PHASE the table gives. -/
def Obligations.StatusIsAFunctionOfPhase : Prop :=
  [Phase.idle, .build, .init, .token, .doneOk, .doneErr].map Phase.status =
    [Status.idle, .busy, .busy, .busy, .doneOk, .doneErr]

/-- 70 R250: what power-on reset leaves, as far as the spec says. -/
def Obligations.ResetLeavesAnIdleEngine : Prop :=
  State.reset.phase = .idle ∧ State.reset.status = .idle ∧ State.reset.errCode = 0 ∧
  State.reset.out = [] ∧ State.reset.outLen = 0

/-- 10 R25, 70 R254: the host's read of OUT: none while BUSY, the result in DONE_OK, nothing after a
failure, for a state that keeps 10 R23 and R25. -/
def Obligations.HostReadsOutOnlyOutsideBusy : Prop :=
  ∀ s : State, ErrCodeInv s →
    (s.status = .busy → hostReadOut s = none ∧ hostReadOutLen s = none) ∧
    (s.status = .doneOk → hostReadOut s = some s.out ∧ hostReadOutLen s = some s.out.length) ∧
    (s.status = .doneErr → hostReadOut s = some [] ∧ hostReadOutLen s = some 0)

/-- 44 R204, R205, 41, 40 R110: what a step of each phase may change. BUILD: the builder's registers and
the arena. INIT: the window. TOKEN: the window, NODE, SYM, the match registers and OUT. All: PHASE, and
on failure ERR_CODE and OUT. That a phase keeps the registers of the blocks after it, which the spec leaves
unspecified there, and that a TOKEN step that ends the decode keeps every working register it does not
write, are the model's choice (log 22; log 7 after a failure). -/
def Obligations.PhaseStepsLeaveTheRestUnchanged : Prop :=
  ∀ s t : State, engineStep s = .next t →
    (s.phase = .build →
      t = { s with phase := t.phase, errCode := t.errCode, out := t.out, cl := t.cl, csl := t.csl,
                   code := t.code, bits := t.bits, nextFree := t.nextFree, arena := t.arena } ∧
      (t.phase = .init → t.errCode = s.errCode ∧ t.out = s.out)) ∧
    (s.phase = .init →
      t = { s with phase := t.phase, errCode := t.errCode, out := t.out, mask := t.mask,
                   avail := t.avail, cursor := t.cursor } ∧
      (t.phase = .token → t.errCode = s.errCode ∧ t.out = s.out)) ∧
    (s.phase = .token →
      t = { s with phase := t.phase, errCode := t.errCode, out := t.out, mask := t.mask,
                   avail := t.avail, cursor := t.cursor, node := t.node, sym := t.sym, ob := t.ob,
                   lc := t.lc, extra := t.extra, dist := t.dist, mlen := t.mlen,
                   copyLeft := t.copyLeft } ∧
      (t.phase ≠ .doneErr → t.errCode = s.errCode))

/-! ### Invariants that every step keeps -/

/-- The model's byte source keeps its canonical form (log 1). -/
def Obligations.StepKeepsMemoryCanonical : Prop :=
  ∀ s t : State, MemoryInv s → step s = .next t → MemoryInv t

/-- 10 R28, 40 R116: the window invariant of a running decode. -/
def Obligations.StepKeepsTheWindowInvariant : Prop :=
  ∀ s t : State, WindowInv s → step s = .next t → WindowInv t

/-- 10 R23, R25: ERR_CODE and OUT agree with STATUS. -/
def Obligations.StepKeepsErrCodeConsistent : Prop :=
  ∀ s t : State, ErrCodeInv s → step s = .next t → ErrCodeInv t

/-- 10 R25, 00 R8: OUT stays within OUT_CAP, and no step changes OUT_CAP (log 3). -/
def Obligations.StepKeepsOutputWithinItsCap : Prop :=
  ∀ s t : State, OutCapInv s → step s = .next t → OutCapInv t ∧ t.outCap = s.outCap

/-- 44 R201, R202: a running decode has a length within the cap and a readable table. -/
def Obligations.StepKeepsTheInputChecked : Prop :=
  ∀ s t : State, InputInv s → step s = .next t → InputInv t

/-- 10 R33, 41 R142: the trie of a running decode has symbols 0..511, a root that is no leaf, and depth
at most 15. -/
def Obligations.StepKeepsTheTrieWalkable : Prop :=
  ∀ s t : State, ArenaInv s → step s = .next t → ArenaInv t

/-- 00 R8: OFFSET and SRC_LEN keep to OFFSET_WIDTH bits if the host's STARTs do (log 4). -/
def Obligations.StepKeepsOffsetWidth : Prop :=
  ∀ s t : State, OffsetWidthInv s → step s = .next t → OffsetWidthInv t

/-- Every invariant above holds at reset. For the fields the spec leaves unspecified this rests on the
model's values (log 2). -/
def Obligations.ResetMeetsTheInvariants : Prop :=
  MemoryInv State.reset ∧ WindowInv State.reset ∧ ErrCodeInv State.reset ∧ OutCapInv State.reset ∧
  InputInv State.reset ∧ ArenaInv State.reset ∧ OffsetWidthInv State.reset

/-! ### The whole decode -/

/-- 60 R223: with a walkable trie, the engine's step always answers a next state: no input makes it
stop, whatever bytes the region holds. -/
def Obligations.EngineNeverStops : Prop :=
  ∀ s : State, ArenaInv s → ∃ t, engineStep s = .next t

/-- 44 R209: every decode started outside BUSY ends, within 3 + 8 * (INPUT_LENGTH - 256) steps. -/
def Obligations.EveryDecodeEnds : Prop :=
  ∀ (s : State) (offset : Nat) (len : U32) (srcLen : Nat),
    s.busy = false → s.host = [.start offset len srcLen] →
    ∃ t, Host.Core.run Sys2Proof.core (3 + 8 * (len.toNat - 256)) s = .next t ∧
      (t.status = .doneOk ∨ t.status = .doneErr)

/-- 44 R210, 70 R251, 10 R21: what the host observes at every step from START on depends only on the
readable bytes of the region, INPUT_LENGTH and OUT_CAP: not on where the region lies, on what earlier
decodes left in any register, or on the bytes around the region. -/
def Obligations.ResultDependsOnlyOnTheRegion : Prop :=
  ∀ (s1 s2 : State) (o1 o2 l1 l2 : Nat) (len : U32),
    s1.busy = false → s2.busy = false → s1.outCap = s2.outCap →
    (∀ i, memRead1 (startLatch o1 len l1 s1) i = memRead1 (startLatch o2 len l2 s2) i) →
    ∀ n, observeRun (n + 1) { s1 with host := [.start o1 len l1] } =
      observeRun (n + 1) { s2 with host := [.start o2 len l2] }
end

