-- ==== Sys2Proof/Laws/Memory.lean ====
section
/-! SUPPORT. The byte source: a read after a write, and the canonical form. -/
namespace Sys2Proof.Machine

@[simp] theorem Memory.read_nil (a : Nat) : Memory.read [] a = unlistedByte := rfl

@[simp] theorem Memory.read_list_cons (a : Nat) (b : Byte) (m : Memory) (x : Nat) :
    Memory.read ((a, b) :: m) x = if x = a then b else Memory.read m x := rfl

/-- Where no cell of a list has an address, the address reads as unlisted. -/
theorem Memory.read_of_forall_ne {m : Memory} {x : Nat} (h : ∀ p ∈ m, p.1 ≠ x) :
    Memory.read m x = unlistedByte := by
  induction m with
  | nil => rfl
  | cons p m ih =>
    obtain ⟨a, b⟩ := p
    have ha : x ≠ a := fun e => h (a, b) (by simp) e.symm
    simp only [Memory.read_list_cons, if_neg ha]
    exact ih fun q hq => h q (by simp [hq])

theorem Memory.read_cons_self {m : Memory} {x : Nat} (b : Byte) (h : ∀ p ∈ m, p.1 ≠ x) :
    Memory.read (Memory.cons x b m) x = b := by
  unfold Memory.cons
  split
  · rename_i hb; rw [Memory.read_of_forall_ne h, hb]
  · simp

theorem Memory.read_cons_other {m : Memory} {x y : Nat} (b : Byte) (h : y ≠ x) :
    Memory.read (Memory.cons x b m) y = Memory.read m y := by
  unfold Memory.cons; split <;> simp [h]

/-- The cells after the first of a sorted list lie above it. -/
theorem Memory.tail_above {p : Host.Cell} {m : Memory}
    (h : (p :: m).Pairwise fun p q => p.1 < q.1) : ∀ q ∈ m, p.1 < q.1 :=
  (List.pairwise_cons.1 h).1

theorem Memory.read_write_self {m : Memory} (x : Nat) (b : Byte)
    (h : m.Pairwise fun p q => p.1 < q.1) : Memory.read (Memory.write m x b) x = b := by
  induction m with
  | nil => exact Memory.read_cons_self b (by simp)
  | cons p m ih =>
    obtain ⟨a, c⟩ := p
    have hm := List.pairwise_cons.1 h
    unfold Memory.write
    split
    · rename_i hx
      refine Memory.read_cons_self b fun q hq => ?_
      rcases List.mem_cons.1 hq with rfl | hq
      · simp; omega
      · have := hm.1 q hq; simp at this; omega
    · split
      · rename_i hx
        subst hx
        exact Memory.read_cons_self b fun q hq => (Nat.ne_of_gt (hm.1 q hq))
      · rename_i hx
        simp only [Memory.read_list_cons, if_neg hx]
        exact ih hm.2

theorem Memory.read_write_other {m : Memory} {x y : Nat} (b : Byte) (h : y ≠ x) :
    Memory.read (Memory.write m x b) y = Memory.read m y := by
  induction m with
  | nil => exact Memory.read_cons_other b h
  | cons p m ih =>
    obtain ⟨a, c⟩ := p
    unfold Memory.write
    split
    · exact Memory.read_cons_other b h
    · split
      · rename_i hx
        subst hx
        rw [Memory.read_cons_other b h, Memory.read_list_cons, if_neg h]
      · simp only [Memory.read_list_cons, ih]

/-- A cell of a written memory is the new one or an old one. -/
theorem Memory.mem_write {m : Memory} {x : Nat} {b : Byte} {q : Host.Cell}
    (h : q ∈ Memory.write m x b) : (q = (x, b) ∧ b ≠ unlistedByte) ∨ q ∈ m := by
  have hcons : ∀ l : Memory, q ∈ Memory.cons x b l → (q = (x, b) ∧ b ≠ unlistedByte) ∨ q ∈ l := by
    intro l hl
    unfold Memory.cons at hl
    split at hl
    · exact .inr hl
    · rename_i hb
      rcases List.mem_cons.1 hl with rfl | hl
      · exact .inl ⟨rfl, hb⟩
      · exact .inr hl
  induction m with
  | nil => exact hcons [] h
  | cons p m ih =>
    obtain ⟨a, c⟩ := p
    unfold Memory.write at h
    split at h
    · exact hcons _ h
    · split at h
      · exact (hcons _ h).imp id (List.mem_cons_of_mem _)
      · rcases List.mem_cons.1 h with rfl | h
        · exact .inr (by simp)
        · exact (ih h).imp id (List.mem_cons_of_mem _)

theorem Memory.sorted_cons {m : Memory} {x : Nat} (b : Byte)
    (h : m.Pairwise fun p q => p.1 < q.1) (hx : ∀ q ∈ m, x < q.1) :
    (Memory.cons x b m).Pairwise fun p q => p.1 < q.1 := by
  unfold Memory.cons
  split
  · exact h
  · exact List.pairwise_cons.2 ⟨hx, h⟩

theorem Memory.sorted_write {m : Memory} (x : Nat) (b : Byte)
    (h : m.Pairwise fun p q => p.1 < q.1) :
    (Memory.write m x b).Pairwise fun p q => p.1 < q.1 := by
  induction m with
  | nil => exact Memory.sorted_cons b .nil (by simp)
  | cons p m ih =>
    obtain ⟨a, c⟩ := p
    have hm := List.pairwise_cons.1 h
    unfold Memory.write
    split
    · rename_i hx
      refine Memory.sorted_cons b h fun q hq => ?_
      rcases List.mem_cons.1 hq with rfl | hq
      · exact hx
      · have := hm.1 q hq; simp at this; omega
    · split
      · rename_i hx
        subst hx
        exact Memory.sorted_cons b hm.2 hm.1
      · rename_i h1 h2
        refine List.pairwise_cons.2 ⟨fun q hq => ?_, ih hm.2⟩
        rcases Memory.mem_write hq with ⟨rfl, -⟩ | hq
        · simp; omega
        · exact hm.1 q hq

/-- Every memory operation keeps the canonical form. -/
theorem Memory.wf_write {m : Memory} (x : Nat) (b : Byte) (h : Memory.wf m) :
    Memory.wf (Memory.write m x b) := by
  refine ⟨Memory.sorted_write x b h.1, fun q hq => ?_⟩
  rcases Memory.mem_write hq with ⟨rfl, hb⟩ | hq
  · exact hb
  · exact h.2 q hq

theorem Memory.wf_nil : Memory.wf [] := by decide

theorem reset_memory_wf : Memory.wf State.reset.src := Memory.wf_nil

end Sys2Proof.Machine
end

