-- ==== Sys2Proof/Laws/State.lean ====
section
/-! SUPPORT. One lemma per field per named update of State, so that no proof unfolds an update. -/
namespace Sys2Proof.Machine

/-! ### `abort` -/

@[simp] theorem abort_phase (e : ErrClass) (s : State) : (abort e s).phase = .doneErr := rfl
@[simp] theorem abort_errCode (e : ErrClass) (s : State) : (abort e s).errCode = e.code := rfl
@[simp] theorem abort_offset (e : ErrClass) (s : State) : (abort e s).offset = s.offset := rfl
@[simp] theorem abort_inputLength (e : ErrClass) (s : State) : (abort e s).inputLength = s.inputLength := rfl
@[simp] theorem abort_srcLen (e : ErrClass) (s : State) : (abort e s).srcLen = s.srcLen := rfl
@[simp] theorem abort_out (e : ErrClass) (s : State) : (abort e s).out = [] := rfl
@[simp] theorem abort_mask (e : ErrClass) (s : State) : (abort e s).mask = s.mask := rfl
@[simp] theorem abort_avail (e : ErrClass) (s : State) : (abort e s).avail = s.avail := rfl
@[simp] theorem abort_cursor (e : ErrClass) (s : State) : (abort e s).cursor = s.cursor := rfl
@[simp] theorem abort_cl (e : ErrClass) (s : State) : (abort e s).cl = s.cl := rfl
@[simp] theorem abort_csl (e : ErrClass) (s : State) : (abort e s).csl = s.csl := rfl
@[simp] theorem abort_code (e : ErrClass) (s : State) : (abort e s).code = s.code := rfl
@[simp] theorem abort_bits (e : ErrClass) (s : State) : (abort e s).bits = s.bits := rfl
@[simp] theorem abort_nextFree (e : ErrClass) (s : State) : (abort e s).nextFree = s.nextFree := rfl
@[simp] theorem abort_arena (e : ErrClass) (s : State) : (abort e s).arena = s.arena := rfl
@[simp] theorem abort_node (e : ErrClass) (s : State) : (abort e s).node = s.node := rfl
@[simp] theorem abort_sym (e : ErrClass) (s : State) : (abort e s).sym = s.sym := rfl
@[simp] theorem abort_ob (e : ErrClass) (s : State) : (abort e s).ob = s.ob := rfl
@[simp] theorem abort_lc (e : ErrClass) (s : State) : (abort e s).lc = s.lc := rfl
@[simp] theorem abort_extra (e : ErrClass) (s : State) : (abort e s).extra = s.extra := rfl
@[simp] theorem abort_dist (e : ErrClass) (s : State) : (abort e s).dist = s.dist := rfl
@[simp] theorem abort_mlen (e : ErrClass) (s : State) : (abort e s).mlen = s.mlen := rfl
@[simp] theorem abort_copyLeft (e : ErrClass) (s : State) : (abort e s).copyLeft = s.copyLeft := rfl
@[simp] theorem abort_src (e : ErrClass) (s : State) : (abort e s).src = s.src := rfl
@[simp] theorem abort_outCap (e : ErrClass) (s : State) : (abort e s).outCap = s.outCap := rfl
@[simp] theorem abort_host (e : ErrClass) (s : State) : (abort e s).host = s.host := rfl

/-! ### `decodeSuccess` -/

@[simp] theorem decodeSuccess_phase (s : State) : (decodeSuccess s).phase = .doneOk := rfl
@[simp] theorem decodeSuccess_errCode (s : State) : (decodeSuccess s).errCode = s.errCode := rfl
@[simp] theorem decodeSuccess_offset (s : State) : (decodeSuccess s).offset = s.offset := rfl
@[simp] theorem decodeSuccess_inputLength (s : State) : (decodeSuccess s).inputLength = s.inputLength := rfl
@[simp] theorem decodeSuccess_srcLen (s : State) : (decodeSuccess s).srcLen = s.srcLen := rfl
@[simp] theorem decodeSuccess_out (s : State) : (decodeSuccess s).out = s.out := rfl
@[simp] theorem decodeSuccess_mask (s : State) : (decodeSuccess s).mask = s.mask := rfl
@[simp] theorem decodeSuccess_avail (s : State) : (decodeSuccess s).avail = s.avail := rfl
@[simp] theorem decodeSuccess_cursor (s : State) : (decodeSuccess s).cursor = s.cursor := rfl
@[simp] theorem decodeSuccess_cl (s : State) : (decodeSuccess s).cl = s.cl := rfl
@[simp] theorem decodeSuccess_csl (s : State) : (decodeSuccess s).csl = s.csl := rfl
@[simp] theorem decodeSuccess_code (s : State) : (decodeSuccess s).code = s.code := rfl
@[simp] theorem decodeSuccess_bits (s : State) : (decodeSuccess s).bits = s.bits := rfl
@[simp] theorem decodeSuccess_nextFree (s : State) : (decodeSuccess s).nextFree = s.nextFree := rfl
@[simp] theorem decodeSuccess_arena (s : State) : (decodeSuccess s).arena = s.arena := rfl
@[simp] theorem decodeSuccess_node (s : State) : (decodeSuccess s).node = s.node := rfl
@[simp] theorem decodeSuccess_sym (s : State) : (decodeSuccess s).sym = s.sym := rfl
@[simp] theorem decodeSuccess_ob (s : State) : (decodeSuccess s).ob = s.ob := rfl
@[simp] theorem decodeSuccess_lc (s : State) : (decodeSuccess s).lc = s.lc := rfl
@[simp] theorem decodeSuccess_extra (s : State) : (decodeSuccess s).extra = s.extra := rfl
@[simp] theorem decodeSuccess_dist (s : State) : (decodeSuccess s).dist = s.dist := rfl
@[simp] theorem decodeSuccess_mlen (s : State) : (decodeSuccess s).mlen = s.mlen := rfl
@[simp] theorem decodeSuccess_copyLeft (s : State) : (decodeSuccess s).copyLeft = s.copyLeft := rfl
@[simp] theorem decodeSuccess_src (s : State) : (decodeSuccess s).src = s.src := rfl
@[simp] theorem decodeSuccess_outCap (s : State) : (decodeSuccess s).outCap = s.outCap := rfl
@[simp] theorem decodeSuccess_host (s : State) : (decodeSuccess s).host = s.host := rfl

/-! ### `shiftWindow` -/

@[simp] theorem shiftWindow_phase (n : Nat) (s : State) : (shiftWindow n s).phase = s.phase := rfl
@[simp] theorem shiftWindow_errCode (n : Nat) (s : State) : (shiftWindow n s).errCode = s.errCode := rfl
@[simp] theorem shiftWindow_offset (n : Nat) (s : State) : (shiftWindow n s).offset = s.offset := rfl
@[simp] theorem shiftWindow_inputLength (n : Nat) (s : State) : (shiftWindow n s).inputLength = s.inputLength := rfl
@[simp] theorem shiftWindow_srcLen (n : Nat) (s : State) : (shiftWindow n s).srcLen = s.srcLen := rfl
@[simp] theorem shiftWindow_out (n : Nat) (s : State) : (shiftWindow n s).out = s.out := rfl
@[simp] theorem shiftWindow_mask (n : Nat) (s : State) : (shiftWindow n s).mask = s.mask <<< n := rfl
@[simp] theorem shiftWindow_avail (n : Nat) (s : State) : (shiftWindow n s).avail = BitVec.ofInt 32 (availNum s - n) := rfl
@[simp] theorem shiftWindow_cursor (n : Nat) (s : State) : (shiftWindow n s).cursor = s.cursor := rfl
@[simp] theorem shiftWindow_cl (n : Nat) (s : State) : (shiftWindow n s).cl = s.cl := rfl
@[simp] theorem shiftWindow_csl (n : Nat) (s : State) : (shiftWindow n s).csl = s.csl := rfl
@[simp] theorem shiftWindow_code (n : Nat) (s : State) : (shiftWindow n s).code = s.code := rfl
@[simp] theorem shiftWindow_bits (n : Nat) (s : State) : (shiftWindow n s).bits = s.bits := rfl
@[simp] theorem shiftWindow_nextFree (n : Nat) (s : State) : (shiftWindow n s).nextFree = s.nextFree := rfl
@[simp] theorem shiftWindow_arena (n : Nat) (s : State) : (shiftWindow n s).arena = s.arena := rfl
@[simp] theorem shiftWindow_node (n : Nat) (s : State) : (shiftWindow n s).node = s.node := rfl
@[simp] theorem shiftWindow_sym (n : Nat) (s : State) : (shiftWindow n s).sym = s.sym := rfl
@[simp] theorem shiftWindow_ob (n : Nat) (s : State) : (shiftWindow n s).ob = s.ob := rfl
@[simp] theorem shiftWindow_lc (n : Nat) (s : State) : (shiftWindow n s).lc = s.lc := rfl
@[simp] theorem shiftWindow_extra (n : Nat) (s : State) : (shiftWindow n s).extra = s.extra := rfl
@[simp] theorem shiftWindow_dist (n : Nat) (s : State) : (shiftWindow n s).dist = s.dist := rfl
@[simp] theorem shiftWindow_mlen (n : Nat) (s : State) : (shiftWindow n s).mlen = s.mlen := rfl
@[simp] theorem shiftWindow_copyLeft (n : Nat) (s : State) : (shiftWindow n s).copyLeft = s.copyLeft := rfl
@[simp] theorem shiftWindow_src (n : Nat) (s : State) : (shiftWindow n s).src = s.src := rfl
@[simp] theorem shiftWindow_outCap (n : Nat) (s : State) : (shiftWindow n s).outCap = s.outCap := rfl
@[simp] theorem shiftWindow_host (n : Nat) (s : State) : (shiftWindow n s).host = s.host := rfl

/-! ### `matchFields` -/

@[simp] theorem matchFields_phase (ob lc : Nibble) (s : State) : (matchFields ob lc s).phase = s.phase := rfl
@[simp] theorem matchFields_errCode (ob lc : Nibble) (s : State) : (matchFields ob lc s).errCode = s.errCode := rfl
@[simp] theorem matchFields_offset (ob lc : Nibble) (s : State) : (matchFields ob lc s).offset = s.offset := rfl
@[simp] theorem matchFields_inputLength (ob lc : Nibble) (s : State) : (matchFields ob lc s).inputLength = s.inputLength := rfl
@[simp] theorem matchFields_srcLen (ob lc : Nibble) (s : State) : (matchFields ob lc s).srcLen = s.srcLen := rfl
@[simp] theorem matchFields_out (ob lc : Nibble) (s : State) : (matchFields ob lc s).out = s.out := rfl
@[simp] theorem matchFields_mask (ob lc : Nibble) (s : State) : (matchFields ob lc s).mask = s.mask := rfl
@[simp] theorem matchFields_avail (ob lc : Nibble) (s : State) : (matchFields ob lc s).avail = s.avail := rfl
@[simp] theorem matchFields_cursor (ob lc : Nibble) (s : State) : (matchFields ob lc s).cursor = s.cursor := rfl
@[simp] theorem matchFields_cl (ob lc : Nibble) (s : State) : (matchFields ob lc s).cl = s.cl := rfl
@[simp] theorem matchFields_csl (ob lc : Nibble) (s : State) : (matchFields ob lc s).csl = s.csl := rfl
@[simp] theorem matchFields_code (ob lc : Nibble) (s : State) : (matchFields ob lc s).code = s.code := rfl
@[simp] theorem matchFields_bits (ob lc : Nibble) (s : State) : (matchFields ob lc s).bits = s.bits := rfl
@[simp] theorem matchFields_nextFree (ob lc : Nibble) (s : State) : (matchFields ob lc s).nextFree = s.nextFree := rfl
@[simp] theorem matchFields_arena (ob lc : Nibble) (s : State) : (matchFields ob lc s).arena = s.arena := rfl
@[simp] theorem matchFields_node (ob lc : Nibble) (s : State) : (matchFields ob lc s).node = s.node := rfl
@[simp] theorem matchFields_sym (ob lc : Nibble) (s : State) : (matchFields ob lc s).sym = s.sym := rfl
@[simp] theorem matchFields_ob (ob lc : Nibble) (s : State) : (matchFields ob lc s).ob = ob := rfl
@[simp] theorem matchFields_lc (ob lc : Nibble) (s : State) : (matchFields ob lc s).lc = lc := rfl
@[simp] theorem matchFields_extra (ob lc : Nibble) (s : State) : (matchFields ob lc s).extra = s.extra := rfl
@[simp] theorem matchFields_dist (ob lc : Nibble) (s : State) : (matchFields ob lc s).dist = s.dist := rfl
@[simp] theorem matchFields_mlen (ob lc : Nibble) (s : State) : (matchFields ob lc s).mlen = s.mlen := rfl
@[simp] theorem matchFields_copyLeft (ob lc : Nibble) (s : State) : (matchFields ob lc s).copyLeft = s.copyLeft := rfl
@[simp] theorem matchFields_src (ob lc : Nibble) (s : State) : (matchFields ob lc s).src = s.src := rfl
@[simp] theorem matchFields_outCap (ob lc : Nibble) (s : State) : (matchFields ob lc s).outCap = s.outCap := rfl
@[simp] theorem matchFields_host (ob lc : Nibble) (s : State) : (matchFields ob lc s).host = s.host := rfl

/-! ### `shortLength` -/

@[simp] theorem shortLength_phase (s : State) : (shortLength s).phase = s.phase := rfl
@[simp] theorem shortLength_errCode (s : State) : (shortLength s).errCode = s.errCode := rfl
@[simp] theorem shortLength_offset (s : State) : (shortLength s).offset = s.offset := rfl
@[simp] theorem shortLength_inputLength (s : State) : (shortLength s).inputLength = s.inputLength := rfl
@[simp] theorem shortLength_srcLen (s : State) : (shortLength s).srcLen = s.srcLen := rfl
@[simp] theorem shortLength_out (s : State) : (shortLength s).out = s.out := rfl
@[simp] theorem shortLength_mask (s : State) : (shortLength s).mask = s.mask := rfl
@[simp] theorem shortLength_avail (s : State) : (shortLength s).avail = s.avail := rfl
@[simp] theorem shortLength_cursor (s : State) : (shortLength s).cursor = s.cursor := rfl
@[simp] theorem shortLength_cl (s : State) : (shortLength s).cl = s.cl := rfl
@[simp] theorem shortLength_csl (s : State) : (shortLength s).csl = s.csl := rfl
@[simp] theorem shortLength_code (s : State) : (shortLength s).code = s.code := rfl
@[simp] theorem shortLength_bits (s : State) : (shortLength s).bits = s.bits := rfl
@[simp] theorem shortLength_nextFree (s : State) : (shortLength s).nextFree = s.nextFree := rfl
@[simp] theorem shortLength_arena (s : State) : (shortLength s).arena = s.arena := rfl
@[simp] theorem shortLength_node (s : State) : (shortLength s).node = s.node := rfl
@[simp] theorem shortLength_sym (s : State) : (shortLength s).sym = s.sym := rfl
@[simp] theorem shortLength_ob (s : State) : (shortLength s).ob = s.ob := rfl
@[simp] theorem shortLength_lc (s : State) : (shortLength s).lc = s.lc := rfl
@[simp] theorem shortLength_extra (s : State) : (shortLength s).extra = s.extra := rfl
@[simp] theorem shortLength_dist (s : State) : (shortLength s).dist = s.dist := rfl
@[simp] theorem shortLength_mlen (s : State) : (shortLength s).mlen = s.lc.setWidth 32 := rfl
@[simp] theorem shortLength_copyLeft (s : State) : (shortLength s).copyLeft = s.copyLeft := rfl
@[simp] theorem shortLength_src (s : State) : (shortLength s).src = s.src := rfl
@[simp] theorem shortLength_outCap (s : State) : (shortLength s).outCap = s.outCap := rfl
@[simp] theorem shortLength_host (s : State) : (shortLength s).host = s.host := rfl

/-! ### `htSort` -/

@[simp] theorem htSort_phase (s : State) : (htSort s).phase = s.phase := rfl
@[simp] theorem htSort_errCode (s : State) : (htSort s).errCode = s.errCode := rfl
@[simp] theorem htSort_offset (s : State) : (htSort s).offset = s.offset := rfl
@[simp] theorem htSort_inputLength (s : State) : (htSort s).inputLength = s.inputLength := rfl
@[simp] theorem htSort_srcLen (s : State) : (htSort s).srcLen = s.srcLen := rfl
@[simp] theorem htSort_out (s : State) : (htSort s).out = s.out := rfl
@[simp] theorem htSort_mask (s : State) : (htSort s).mask = s.mask := rfl
@[simp] theorem htSort_avail (s : State) : (htSort s).avail = s.avail := rfl
@[simp] theorem htSort_cursor (s : State) : (htSort s).cursor = s.cursor := rfl
@[simp] theorem htSort_cl (s : State) : (htSort s).cl = s.cl := rfl
@[simp] theorem htSort_csl (s : State) : (htSort s).csl = canonicalList s.cl := rfl
@[simp] theorem htSort_code (s : State) : (htSort s).code = s.code := rfl
@[simp] theorem htSort_bits (s : State) : (htSort s).bits = s.bits := rfl
@[simp] theorem htSort_nextFree (s : State) : (htSort s).nextFree = s.nextFree := rfl
@[simp] theorem htSort_arena (s : State) : (htSort s).arena = s.arena := rfl
@[simp] theorem htSort_node (s : State) : (htSort s).node = s.node := rfl
@[simp] theorem htSort_sym (s : State) : (htSort s).sym = s.sym := rfl
@[simp] theorem htSort_ob (s : State) : (htSort s).ob = s.ob := rfl
@[simp] theorem htSort_lc (s : State) : (htSort s).lc = s.lc := rfl
@[simp] theorem htSort_extra (s : State) : (htSort s).extra = s.extra := rfl
@[simp] theorem htSort_dist (s : State) : (htSort s).dist = s.dist := rfl
@[simp] theorem htSort_mlen (s : State) : (htSort s).mlen = s.mlen := rfl
@[simp] theorem htSort_copyLeft (s : State) : (htSort s).copyLeft = s.copyLeft := rfl
@[simp] theorem htSort_src (s : State) : (htSort s).src = s.src := rfl
@[simp] theorem htSort_outCap (s : State) : (htSort s).outCap = s.outCap := rfl
@[simp] theorem htSort_host (s : State) : (htSort s).host = s.host := rfl

/-! ### `startLatch` -/

@[simp] theorem startLatch_phase (o : Nat) (n : U32) (l : Nat) (s : State) : (startLatch o n l s).phase = .build := rfl
@[simp] theorem startLatch_errCode (o : Nat) (n : U32) (l : Nat) (s : State) : (startLatch o n l s).errCode = 0 := rfl
@[simp] theorem startLatch_offset (o : Nat) (n : U32) (l : Nat) (s : State) : (startLatch o n l s).offset = o := rfl
@[simp] theorem startLatch_inputLength (o : Nat) (n : U32) (l : Nat) (s : State) : (startLatch o n l s).inputLength = n := rfl
@[simp] theorem startLatch_srcLen (o : Nat) (n : U32) (l : Nat) (s : State) : (startLatch o n l s).srcLen = l := rfl
@[simp] theorem startLatch_out (o : Nat) (n : U32) (l : Nat) (s : State) : (startLatch o n l s).out = [] := rfl
@[simp] theorem startLatch_mask (o : Nat) (n : U32) (l : Nat) (s : State) : (startLatch o n l s).mask = s.mask := rfl
@[simp] theorem startLatch_avail (o : Nat) (n : U32) (l : Nat) (s : State) : (startLatch o n l s).avail = s.avail := rfl
@[simp] theorem startLatch_cursor (o : Nat) (n : U32) (l : Nat) (s : State) : (startLatch o n l s).cursor = s.cursor := rfl
@[simp] theorem startLatch_cl (o : Nat) (n : U32) (l : Nat) (s : State) : (startLatch o n l s).cl = s.cl := rfl
@[simp] theorem startLatch_csl (o : Nat) (n : U32) (l : Nat) (s : State) : (startLatch o n l s).csl = s.csl := rfl
@[simp] theorem startLatch_code (o : Nat) (n : U32) (l : Nat) (s : State) : (startLatch o n l s).code = s.code := rfl
@[simp] theorem startLatch_bits (o : Nat) (n : U32) (l : Nat) (s : State) : (startLatch o n l s).bits = s.bits := rfl
@[simp] theorem startLatch_nextFree (o : Nat) (n : U32) (l : Nat) (s : State) : (startLatch o n l s).nextFree = s.nextFree := rfl
@[simp] theorem startLatch_arena (o : Nat) (n : U32) (l : Nat) (s : State) : (startLatch o n l s).arena = freshArena := rfl
@[simp] theorem startLatch_node (o : Nat) (n : U32) (l : Nat) (s : State) : (startLatch o n l s).node = s.node := rfl
@[simp] theorem startLatch_sym (o : Nat) (n : U32) (l : Nat) (s : State) : (startLatch o n l s).sym = s.sym := rfl
@[simp] theorem startLatch_ob (o : Nat) (n : U32) (l : Nat) (s : State) : (startLatch o n l s).ob = s.ob := rfl
@[simp] theorem startLatch_lc (o : Nat) (n : U32) (l : Nat) (s : State) : (startLatch o n l s).lc = s.lc := rfl
@[simp] theorem startLatch_extra (o : Nat) (n : U32) (l : Nat) (s : State) : (startLatch o n l s).extra = s.extra := rfl
@[simp] theorem startLatch_dist (o : Nat) (n : U32) (l : Nat) (s : State) : (startLatch o n l s).dist = s.dist := rfl
@[simp] theorem startLatch_mlen (o : Nat) (n : U32) (l : Nat) (s : State) : (startLatch o n l s).mlen = s.mlen := rfl
@[simp] theorem startLatch_copyLeft (o : Nat) (n : U32) (l : Nat) (s : State) : (startLatch o n l s).copyLeft = s.copyLeft := rfl
@[simp] theorem startLatch_src (o : Nat) (n : U32) (l : Nat) (s : State) : (startLatch o n l s).src = s.src := rfl
@[simp] theorem startLatch_outCap (o : Nat) (n : U32) (l : Nat) (s : State) : (startLatch o n l s).outCap = s.outCap := rfl
@[simp] theorem startLatch_host (o : Nat) (n : U32) (l : Nat) (s : State) : (startLatch o n l s).host = s.host := rfl

/-! ### `setChild` -/

@[simp] theorem setChild_phase (i : Slot) (b : Bool) (c : Slot) (s : State) : (s.setChild i b c).phase = s.phase := rfl
@[simp] theorem setChild_errCode (i : Slot) (b : Bool) (c : Slot) (s : State) : (s.setChild i b c).errCode = s.errCode := rfl
@[simp] theorem setChild_offset (i : Slot) (b : Bool) (c : Slot) (s : State) : (s.setChild i b c).offset = s.offset := rfl
@[simp] theorem setChild_inputLength (i : Slot) (b : Bool) (c : Slot) (s : State) : (s.setChild i b c).inputLength = s.inputLength := rfl
@[simp] theorem setChild_srcLen (i : Slot) (b : Bool) (c : Slot) (s : State) : (s.setChild i b c).srcLen = s.srcLen := rfl
@[simp] theorem setChild_out (i : Slot) (b : Bool) (c : Slot) (s : State) : (s.setChild i b c).out = s.out := rfl
@[simp] theorem setChild_mask (i : Slot) (b : Bool) (c : Slot) (s : State) : (s.setChild i b c).mask = s.mask := rfl
@[simp] theorem setChild_avail (i : Slot) (b : Bool) (c : Slot) (s : State) : (s.setChild i b c).avail = s.avail := rfl
@[simp] theorem setChild_cursor (i : Slot) (b : Bool) (c : Slot) (s : State) : (s.setChild i b c).cursor = s.cursor := rfl
@[simp] theorem setChild_cl (i : Slot) (b : Bool) (c : Slot) (s : State) : (s.setChild i b c).cl = s.cl := rfl
@[simp] theorem setChild_csl (i : Slot) (b : Bool) (c : Slot) (s : State) : (s.setChild i b c).csl = s.csl := rfl
@[simp] theorem setChild_code (i : Slot) (b : Bool) (c : Slot) (s : State) : (s.setChild i b c).code = s.code := rfl
@[simp] theorem setChild_bits (i : Slot) (b : Bool) (c : Slot) (s : State) : (s.setChild i b c).bits = s.bits := rfl
@[simp] theorem setChild_nextFree (i : Slot) (b : Bool) (c : Slot) (s : State) : (s.setChild i b c).nextFree = s.nextFree := rfl
@[simp] theorem setChild_arena (i : Slot) (b : Bool) (c : Slot) (s : State) : (s.setChild i b c).arena = setSlot s.arena i ((slotAt s.arena i).setChild b c) := rfl
@[simp] theorem setChild_node (i : Slot) (b : Bool) (c : Slot) (s : State) : (s.setChild i b c).node = s.node := rfl
@[simp] theorem setChild_sym (i : Slot) (b : Bool) (c : Slot) (s : State) : (s.setChild i b c).sym = s.sym := rfl
@[simp] theorem setChild_ob (i : Slot) (b : Bool) (c : Slot) (s : State) : (s.setChild i b c).ob = s.ob := rfl
@[simp] theorem setChild_lc (i : Slot) (b : Bool) (c : Slot) (s : State) : (s.setChild i b c).lc = s.lc := rfl
@[simp] theorem setChild_extra (i : Slot) (b : Bool) (c : Slot) (s : State) : (s.setChild i b c).extra = s.extra := rfl
@[simp] theorem setChild_dist (i : Slot) (b : Bool) (c : Slot) (s : State) : (s.setChild i b c).dist = s.dist := rfl
@[simp] theorem setChild_mlen (i : Slot) (b : Bool) (c : Slot) (s : State) : (s.setChild i b c).mlen = s.mlen := rfl
@[simp] theorem setChild_copyLeft (i : Slot) (b : Bool) (c : Slot) (s : State) : (s.setChild i b c).copyLeft = s.copyLeft := rfl
@[simp] theorem setChild_src (i : Slot) (b : Bool) (c : Slot) (s : State) : (s.setChild i b c).src = s.src := rfl
@[simp] theorem setChild_outCap (i : Slot) (b : Bool) (c : Slot) (s : State) : (s.setChild i b c).outCap = s.outCap := rfl
@[simp] theorem setChild_host (i : Slot) (b : Bool) (c : Slot) (s : State) : (s.setChild i b c).host = s.host := rfl

/-! ### `setLeaf` -/

@[simp] theorem setLeaf_phase (i : Slot) (v : Bool) (s : State) : (s.setLeaf i v).phase = s.phase := rfl
@[simp] theorem setLeaf_errCode (i : Slot) (v : Bool) (s : State) : (s.setLeaf i v).errCode = s.errCode := rfl
@[simp] theorem setLeaf_offset (i : Slot) (v : Bool) (s : State) : (s.setLeaf i v).offset = s.offset := rfl
@[simp] theorem setLeaf_inputLength (i : Slot) (v : Bool) (s : State) : (s.setLeaf i v).inputLength = s.inputLength := rfl
@[simp] theorem setLeaf_srcLen (i : Slot) (v : Bool) (s : State) : (s.setLeaf i v).srcLen = s.srcLen := rfl
@[simp] theorem setLeaf_out (i : Slot) (v : Bool) (s : State) : (s.setLeaf i v).out = s.out := rfl
@[simp] theorem setLeaf_mask (i : Slot) (v : Bool) (s : State) : (s.setLeaf i v).mask = s.mask := rfl
@[simp] theorem setLeaf_avail (i : Slot) (v : Bool) (s : State) : (s.setLeaf i v).avail = s.avail := rfl
@[simp] theorem setLeaf_cursor (i : Slot) (v : Bool) (s : State) : (s.setLeaf i v).cursor = s.cursor := rfl
@[simp] theorem setLeaf_cl (i : Slot) (v : Bool) (s : State) : (s.setLeaf i v).cl = s.cl := rfl
@[simp] theorem setLeaf_csl (i : Slot) (v : Bool) (s : State) : (s.setLeaf i v).csl = s.csl := rfl
@[simp] theorem setLeaf_code (i : Slot) (v : Bool) (s : State) : (s.setLeaf i v).code = s.code := rfl
@[simp] theorem setLeaf_bits (i : Slot) (v : Bool) (s : State) : (s.setLeaf i v).bits = s.bits := rfl
@[simp] theorem setLeaf_nextFree (i : Slot) (v : Bool) (s : State) : (s.setLeaf i v).nextFree = s.nextFree := rfl
@[simp] theorem setLeaf_arena (i : Slot) (v : Bool) (s : State) : (s.setLeaf i v).arena = setSlot s.arena i { slotAt s.arena i with leaf := v } := rfl
@[simp] theorem setLeaf_node (i : Slot) (v : Bool) (s : State) : (s.setLeaf i v).node = s.node := rfl
@[simp] theorem setLeaf_sym (i : Slot) (v : Bool) (s : State) : (s.setLeaf i v).sym = s.sym := rfl
@[simp] theorem setLeaf_ob (i : Slot) (v : Bool) (s : State) : (s.setLeaf i v).ob = s.ob := rfl
@[simp] theorem setLeaf_lc (i : Slot) (v : Bool) (s : State) : (s.setLeaf i v).lc = s.lc := rfl
@[simp] theorem setLeaf_extra (i : Slot) (v : Bool) (s : State) : (s.setLeaf i v).extra = s.extra := rfl
@[simp] theorem setLeaf_dist (i : Slot) (v : Bool) (s : State) : (s.setLeaf i v).dist = s.dist := rfl
@[simp] theorem setLeaf_mlen (i : Slot) (v : Bool) (s : State) : (s.setLeaf i v).mlen = s.mlen := rfl
@[simp] theorem setLeaf_copyLeft (i : Slot) (v : Bool) (s : State) : (s.setLeaf i v).copyLeft = s.copyLeft := rfl
@[simp] theorem setLeaf_src (i : Slot) (v : Bool) (s : State) : (s.setLeaf i v).src = s.src := rfl
@[simp] theorem setLeaf_outCap (i : Slot) (v : Bool) (s : State) : (s.setLeaf i v).outCap = s.outCap := rfl
@[simp] theorem setLeaf_host (i : Slot) (v : Bool) (s : State) : (s.setLeaf i v).host = s.host := rfl

/-! ### `setSym` -/

@[simp] theorem setSym_phase (i : Slot) (v : U16) (s : State) : (s.setSym i v).phase = s.phase := rfl
@[simp] theorem setSym_errCode (i : Slot) (v : U16) (s : State) : (s.setSym i v).errCode = s.errCode := rfl
@[simp] theorem setSym_offset (i : Slot) (v : U16) (s : State) : (s.setSym i v).offset = s.offset := rfl
@[simp] theorem setSym_inputLength (i : Slot) (v : U16) (s : State) : (s.setSym i v).inputLength = s.inputLength := rfl
@[simp] theorem setSym_srcLen (i : Slot) (v : U16) (s : State) : (s.setSym i v).srcLen = s.srcLen := rfl
@[simp] theorem setSym_out (i : Slot) (v : U16) (s : State) : (s.setSym i v).out = s.out := rfl
@[simp] theorem setSym_mask (i : Slot) (v : U16) (s : State) : (s.setSym i v).mask = s.mask := rfl
@[simp] theorem setSym_avail (i : Slot) (v : U16) (s : State) : (s.setSym i v).avail = s.avail := rfl
@[simp] theorem setSym_cursor (i : Slot) (v : U16) (s : State) : (s.setSym i v).cursor = s.cursor := rfl
@[simp] theorem setSym_cl (i : Slot) (v : U16) (s : State) : (s.setSym i v).cl = s.cl := rfl
@[simp] theorem setSym_csl (i : Slot) (v : U16) (s : State) : (s.setSym i v).csl = s.csl := rfl
@[simp] theorem setSym_code (i : Slot) (v : U16) (s : State) : (s.setSym i v).code = s.code := rfl
@[simp] theorem setSym_bits (i : Slot) (v : U16) (s : State) : (s.setSym i v).bits = s.bits := rfl
@[simp] theorem setSym_nextFree (i : Slot) (v : U16) (s : State) : (s.setSym i v).nextFree = s.nextFree := rfl
@[simp] theorem setSym_arena (i : Slot) (v : U16) (s : State) : (s.setSym i v).arena = setSlot s.arena i { slotAt s.arena i with sym := v } := rfl
@[simp] theorem setSym_node (i : Slot) (v : U16) (s : State) : (s.setSym i v).node = s.node := rfl
@[simp] theorem setSym_sym (i : Slot) (v : U16) (s : State) : (s.setSym i v).sym = s.sym := rfl
@[simp] theorem setSym_ob (i : Slot) (v : U16) (s : State) : (s.setSym i v).ob = s.ob := rfl
@[simp] theorem setSym_lc (i : Slot) (v : U16) (s : State) : (s.setSym i v).lc = s.lc := rfl
@[simp] theorem setSym_extra (i : Slot) (v : U16) (s : State) : (s.setSym i v).extra = s.extra := rfl
@[simp] theorem setSym_dist (i : Slot) (v : U16) (s : State) : (s.setSym i v).dist = s.dist := rfl
@[simp] theorem setSym_mlen (i : Slot) (v : U16) (s : State) : (s.setSym i v).mlen = s.mlen := rfl
@[simp] theorem setSym_copyLeft (i : Slot) (v : U16) (s : State) : (s.setSym i v).copyLeft = s.copyLeft := rfl
@[simp] theorem setSym_src (i : Slot) (v : U16) (s : State) : (s.setSym i v).src = s.src := rfl
@[simp] theorem setSym_outCap (i : Slot) (v : U16) (s : State) : (s.setSym i v).outCap = s.outCap := rfl
@[simp] theorem setSym_host (i : Slot) (v : U16) (s : State) : (s.setSym i v).host = s.host := rfl

end Sys2Proof.Machine
end

