-- ==== Sys2Proof/Laws/Ops.lean ====
section
/-! SUPPORT. One lemma per shared operation of Ops.lean: what it can answer, and with which state. -/
namespace Sys2Proof.Machine

/-! ### Answers of rules -/

theorem except_bind_eq_ok {α β : Type} {x : Except ErrClass α} {f : α → Except ErrClass β} {r : β} :
    (x >>= f) = .ok r ↔ ∃ a, x = .ok a ∧ f a = .ok r := by
  cases x with
  | error e => simp [bind, Except.bind]
  | ok a => simp [bind, Except.bind]

theorem except_bind_eq_error {α β : Type} {x : Except ErrClass α} {f : α → Except ErrClass β}
    {e : ErrClass} : (x >>= f) = .error e ↔ x = .error e ∨ ∃ a, x = .ok a ∧ f a = .error e := by
  cases x with
  | error e' => simp [bind, Except.bind]
  | ok a => simp [bind, Except.bind]

@[simp] theorem except_ok_bind {α β : Type} (a : α) (f : α → Except ErrClass β) :
    ((.ok a : Except ErrClass α) >>= f) = f a := rfl

@[simp] theorem except_error_bind {α β : Type} (e : ErrClass) (f : α → Except ErrClass β) :
    ((.error e : Except ErrClass α) >>= f) = .error e := rfl

@[simp] theorem orRaise_some {α : Type} (a : α) (e : ErrClass) : orRaise (some a) e = .ok a := rfl

@[simp] theorem orRaise_none {α : Type} (e : ErrClass) : orRaise (none : Option α) e = .error e := rfl

theorem orRaise_eq_ok {α : Type} {r : Option α} {e : ErrClass} {a : α} :
    orRaise r e = .ok a ↔ r = some a := by cases r <;> simp [orRaise]

theorem orRaise_eq_error {α : Type} {r : Option α} {e e' : ErrClass} :
    orRaise r e = .error e' ↔ r = none ∧ e = e' := by cases r <;> simp [orRaise]

@[simp] theorem conclude_ok (s t : State) : conclude s (.ok t) = .next t := rfl

@[simp] theorem conclude_error (s : State) (e : ErrClass) :
    conclude s (.error e) = .next (abort e s) := rfl

/-- A concluded rule always answers a next state: its own, or its failure's. -/
theorem conclude_cases (s : State) (r : Except ErrClass State) :
    (∃ t, r = .ok t ∧ conclude s r = .next t) ∨ (∃ e, r = .error e ∧ conclude s r = .next (abort e s)) := by
  cases r with
  | ok t => exact .inl ⟨t, rfl, rfl⟩
  | error e => exact .inr ⟨e, rfl, rfl⟩

theorem conclude_eq_next {s t : State} {r : Except ErrClass State} :
    conclude s r = .next t ↔ r = .ok t ∨ ∃ e, r = .error e ∧ t = abort e s := by
  cases r <;> simp [eq_comm]

/-! ### Region reads -/

theorem memRead1_eq_some {s : State} {i : Nat} {b : Byte} :
    memRead1 s i = some b ↔ readable s i = true ∧ regionByte s i = b := by
  unfold memRead1; split <;> simp_all

theorem memRead2_eq_some {s : State} {i : Nat} {w : U16} :
    memRead2 s i = some w ↔ (readable s i = true ∧ readable s (i + 1) = true) ∧
      littleEndian (regionByte s i) (regionByte s (i + 1)) = w := by
  unfold memRead2 memRead1
  cases readable s i <;> cases readable s (i + 1) <;> simp

theorem readable_iff {s : State} {i : Nat} :
    readable s i = true ↔ i < s.inputLength.toNat ∧ s.offset + i < s.srcLen := by
  simp [readable]

/-- A readable pair of bytes ends inside the region. -/
theorem memRead2_in_region {s : State} {i : Nat} {w : U16} (h : memRead2 s i = some w) :
    i + 2 ≤ s.inputLength.toNat := by
  have := readable_iff.1 (memRead2_eq_some.1 h).1.2
  omega

/-- A region read looks at the launch arguments and the byte source alone. -/
theorem memRead1_congr {s t : State} (hl : t.inputLength = s.inputLength) (ho : t.offset = s.offset)
    (hs : t.srcLen = s.srcLen) (hm : t.src = s.src) : memRead1 t = memRead1 s := by
  funext i; simp [memRead1, readable, regionByte, hl, ho, hs, hm]

theorem memRead2_congr {s t : State} (h : memRead1 t = memRead1 s) : memRead2 t = memRead2 s := by
  funext i; simp [memRead2, h]

/-! ### OUT -/

@[simp] theorem hasRoom_zero_of_none {s : State} {n : Nat} (h : s.outCap = none) :
    hasRoom s n = true := by simp [hasRoom, h]

theorem hasRoom_iff {s : State} {n : Nat} :
    hasRoom s n = true ↔ ∀ cap, s.outCap = some cap → s.out.length + n ≤ cap := by
  unfold hasRoom State.outLen
  cases h : s.outCap <;> simp

theorem outAppend_eq_ok {b : Byte} {s t : State} :
    outAppend b s = .ok t ↔ hasRoom s 1 = true ∧ t = { s with out := s.out ++ [b] } := by
  unfold outAppend
  cases hasRoom s 1 with
  | false => simp
  | true => simpa using eq_comm

theorem outAppend_eq_error {b : Byte} {s : State} {e : ErrClass} :
    outAppend b s = .error e ↔ hasRoom s 1 = false ∧ e = .outputOverflow := by
  unfold outAppend
  cases hasRoom s 1 with
  | false => simpa using eq_comm
  | true => simp

theorem outRead_eq_some {s : State} {j : Int} {b : Byte} :
    outRead s j = some b ↔ 0 ≤ j ∧ s.out[j.toNat]? = some b := by
  unfold outRead; split
  · simp; omega
  · simp_all

/-! ### The arena -/

theorem takeSlot_eq_ok {s t : State} {slot : Slot} :
    takeSlot s = .ok (slot, t) ↔ s.nextFree.val = slot.val ∧
      ∃ h : s.nextFree.val < 1024, t = { s with nextFree := ⟨s.nextFree.val + 1, by omega⟩ } := by
  unfold takeSlot; split
  · rename_i h
    simp only [Except.ok.injEq, Prod.mk.injEq, h, exists_true_left]
    constructor
    · rintro ⟨rfl, rfl⟩; exact ⟨rfl, rfl⟩
    · rintro ⟨h1, rfl⟩; exact ⟨Fin.ext h1, rfl⟩
  · rename_i h
    constructor
    · intro h'; cases h'
    · rintro ⟨-, h', -⟩; exact absurd h' h

theorem takeSlot_eq_error {s : State} {e : ErrClass} :
    takeSlot s = .error e ↔ s.nextFree.val = 1024 ∧ e = .invalidHuffmanTree := by
  have := s.nextFree.isLt
  unfold takeSlot; split
  · simp; omega
  · simp only [Except.error.injEq, eq_comm (a := e)]
    constructor
    · intro h; exact ⟨by omega, h⟩
    · exact And.right

@[simp] theorem Node.child_setChild_self (n : Node) (b : Bool) (c : Slot) :
    (n.setChild b c).child b = some c := by cases b <;> rfl

theorem Node.child_setChild_other (n : Node) {b b' : Bool} (c : Slot) (h : b' ≠ b) :
    (n.setChild b c).child b' = n.child b' := by cases b <;> cases b' <;> first | rfl | simp at h

@[simp] theorem Node.setChild_sym (n : Node) (b : Bool) (c : Slot) : (n.setChild b c).sym = n.sym := by
  cases b <;> rfl

@[simp] theorem Node.setChild_leaf (n : Node) (b : Bool) (c : Slot) :
    (n.setChild b c).leaf = n.leaf := by cases b <;> rfl

@[simp] theorem Node.child_clear (b : Bool) : Node.clear.child b = none := by cases b <;> rfl

@[simp] theorem slotAt_freshArena (i : Slot) : slotAt freshArena i = Node.clear := by
  simp [slotAt, freshArena]

/-- A slot of the arena after one slot is set. -/
theorem slotAt_setSlot (a : Vector Node 1024) (i j : Slot) (n : Node) :
    slotAt (setSlot a i n) j = if i = j then n else slotAt a j := by
  simp [slotAt, setSlot, Vector.getElem_set, Fin.ext_iff]

@[simp] theorem slotAt_setSlot_self (a : Vector Node 1024) (i : Slot) (n : Node) :
    slotAt (setSlot a i n) i = n := by simp [slotAt_setSlot]

theorem slotAt_setSlot_other (a : Vector Node 1024) {i j : Slot} (n : Node) (h : j ≠ i) :
    slotAt (setSlot a i n) j = slotAt a j := by simp [slotAt_setSlot, h.symm]

end Sys2Proof.Machine
end

