-- ==== Sys2Proof/Laws/BitReader.lean ====
section
/-! SUPPORT. The bit_reader's operations: what each answers, and that each touches only the window. -/
namespace Sys2Proof.Machine

/-- AVAIL is an i32. -/
theorem availNum_bounds (s : State) : -2 ^ 31 ≤ availNum s ∧ availNum s < 2 ^ 31 := by
  have h1 := BitVec.le_toInt s.avail
  have h2 := BitVec.toInt_lt (x := s.avail)
  simp at h1 h2
  unfold availNum; omega

/-- An integer in the range of an i32 is read back as written. -/
theorem toInt_ofInt_32 {x : Int} (h1 : -2 ^ 31 ≤ x) (h2 : x < 2 ^ 31) :
    (BitVec.ofInt 32 x).toInt = x := by
  rw [BitVec.toInt_ofInt]
  exact Int.bmod_eq_of_le (by simp; omega) (by simp; omega)

/-- AVAIL after a shift the guard lets through. -/
theorem availNum_shiftWindow {n : Nat} {s : State} (h : (n : Int) ≤ availNum s) :
    availNum (shiftWindow n s) = availNum s - n := by
  have := availNum_bounds s
  exact toInt_ofInt_32 (by omega) (by omega)

/-- A peek that answers: the bits as a number, and what the guards let through. -/
theorem brPeek_eq_ok {n : Nat} {s : State} {v : U32} :
    brPeek n s = .ok v ↔ (n = 0 ∧ v = 0) ∨
      (n ≠ 0 ∧ (n : Int) ≤ availNum s ∧ v = s.mask >>> (32 - n)) := by
  unfold brPeek
  by_cases h0 : n = 0
  · simp only [h0, if_true, Except.ok.injEq]
    exact ⟨fun h => .inl ⟨trivial, h.symm⟩, fun h => (h.elim And.right (absurd rfl ·.1)).symm⟩
  · simp only [h0, if_false, false_and, false_or, ne_eq, not_false_eq_true, true_and]
    split
    · rename_i h
      exact ⟨fun h' => by simp at h', fun h' => by omega⟩
    · rename_i h
      simp only [Except.ok.injEq]
      exact ⟨fun h' => ⟨by omega, h'.symm⟩, fun h' => h'.2.symm⟩

theorem brPeek_eq_error {n : Nat} {s : State} {e : ErrClass} :
    brPeek n s = .error e ↔ n ≠ 0 ∧ availNum s < n ∧ e = .bitUnderflow := by
  unfold brPeek
  split
  · simp_all
  · split
    · rename_i h0 h
      simp only [Except.error.injEq, eq_comm (a := e)]
      exact ⟨fun h' => ⟨h0, by omega, h'⟩, fun h' => h'.2.2⟩
    · rename_i h0 h; simp; omega

theorem brRefill_eq_ok {s t : State} :
    brRefill s = .ok t ↔ ∃ w, memRead2 s s.cursor.toNat = some w ∧
      t = { s with
        mask := s.mask ||| (w.setWidth 32 <<< (16 - availNum s).toNat)
        cursor := s.cursor + 2
        avail := BitVec.ofInt 32 (availNum s + 16) } := by
  simp only [brRefill, except_bind_eq_ok, orRaise_eq_ok, Except.ok.injEq, eq_comm (a := t)]
  exact Iff.rfl

theorem brRefill_eq_error {s : State} {e : ErrClass} :
    brRefill s = .error e ↔ memRead2 s s.cursor.toNat = none ∧ e = .bitUnderflow := by
  simp [brRefill, except_bind_eq_error, orRaise_eq_error, eq_comm (a := e)]

/-- A skip that answers: the shifted window, or the shifted window refilled. -/
theorem brSkip_eq_ok {n : Nat} {s t : State} :
    brSkip n s = .ok t ↔ (n : Int) ≤ availNum s ∧
      ((16 ≤ availNum s - n ∧ t = shiftWindow n s) ∨
       (availNum s - n < 16 ∧ brRefill (shiftWindow n s) = .ok t)) := by
  unfold brSkip
  split
  · simp; omega
  · rename_i h
    rw [availNum_shiftWindow (by omega)]
    split
    · rename_i h'; simp at h'
      constructor
      · exact fun hr => ⟨by omega, .inr ⟨h', hr⟩⟩
      · rintro ⟨-, ⟨hc, -⟩ | ⟨-, hr⟩⟩
        · omega
        · exact hr
    · rename_i h'; simp at h'
      simp only [Except.ok.injEq, eq_comm (a := t)]
      constructor
      · exact fun hr => ⟨by omega, .inl ⟨h', hr⟩⟩
      · rintro ⟨-, ⟨-, hr⟩ | ⟨hc, -⟩⟩
        · exact hr
        · omega

/-- A skip fails in one way. -/
theorem brSkip_error {n : Nat} {s : State} {e : ErrClass} (h : brSkip n s = .error e) :
    e = .bitUnderflow := by
  unfold brSkip at h
  split at h
  · simpa [eq_comm] using h
  · split at h
    · exact (brRefill_eq_error.1 h).2
    · cases h

/-- A skip touches only the window. -/
theorem brSkip_frame {n : Nat} {s t : State} (h : brSkip n s = .ok t) :
    t = { s with mask := t.mask, avail := t.avail, cursor := t.cursor } := by
  obtain ⟨-, ⟨-, rfl⟩ | ⟨-, h⟩⟩ := brSkip_eq_ok.1 h
  · rfl
  · obtain ⟨w, -, rfl⟩ := brRefill_eq_ok.1 h; rfl

theorem brInit_eq_ok {s t : State} :
    brInit s = .ok t ↔ ∃ w0 w1, memRead2 s 256 = some w0 ∧ memRead2 s 258 = some w1 ∧
      t = { s with
        mask := (w0.setWidth 32 <<< 16) ||| w1.setWidth 32
        avail := 32
        cursor := 260 } := by
  simp only [brInit, except_bind_eq_ok, orRaise_eq_ok, Except.ok.injEq, eq_comm (a := t)]
  constructor
  · rintro ⟨w0, h0, w1, h1, h⟩; exact ⟨w0, w1, h0, h1, h⟩
  · rintro ⟨w0, w1, h0, h1, h⟩; exact ⟨w0, h0, w1, h1, h⟩

end Sys2Proof.Machine
end

