-- ==== Sys2Proof/Laws/Builder.lean ====
section
/-! SUPPORT. The huffman_trie_builder's operations: what each touches, and the one class it raises. -/
namespace Sys2Proof.Machine

/-- `t` differs from `s` only in NEXT_FREE and the arena. -/
abbrev OnlyTrie (s t : State) : Prop := t = { s with nextFree := t.nextFree, arena := t.arena }

/-- `t` differs from `s` only in CODE, BITS, NEXT_FREE and the arena. -/
abbrev OnlyAssign (s t : State) : Prop :=
  t = { s with code := t.code, bits := t.bits, nextFree := t.nextFree, arena := t.arena }

theorem OnlyTrie.trans {s t u : State} (h1 : OnlyTrie s t) (h2 : OnlyTrie t u) : OnlyTrie s u := by
  rw [OnlyTrie, h2, h1]

theorem OnlyAssign.trans {s t u : State} (h1 : OnlyAssign s t) (h2 : OnlyAssign t u) :
    OnlyAssign s u := by rw [OnlyAssign, h2, h1]

theorem OnlyTrie.assign {s t : State} (h : OnlyTrie s t) : OnlyAssign s t := by rw [OnlyAssign, h]

theorem takeSlot_frame {s t : State} {slot : Slot} (h : takeSlot s = .ok (slot, t)) :
    OnlyTrie s t := by
  obtain ⟨-, h', rfl⟩ := takeSlot_eq_ok.1 h; rfl

theorem reserveLeaf_eq_ok {sym : U16} {s t : State} {slot : Slot} :
    reserveLeaf sym s = .ok (slot, t) ↔
      ∃ u, takeSlot s = .ok (slot, u) ∧ t = (u.setSym slot sym).setLeaf slot true := by
  simp only [reserveLeaf, except_bind_eq_ok, Prod.exists, Except.ok.injEq, Prod.mk.injEq]
  constructor
  · rintro ⟨a, u, h, rfl, rfl⟩; exact ⟨u, h, rfl⟩
  · rintro ⟨u, h, rfl⟩; exact ⟨slot, u, h, rfl, rfl⟩

theorem reserveLeaf_frame {sym : U16} {s t : State} {slot : Slot}
    (h : reserveLeaf sym s = .ok (slot, t)) : OnlyTrie s t := by
  obtain ⟨u, hu, rfl⟩ := reserveLeaf_eq_ok.1 h
  rw [takeSlot_frame hu]; rfl

theorem walkPath_nil (i : Slot) (s : State) : walkPath [] i s = .ok (i, s) := rfl

/-- A level of the insertion walk over an existing child. -/
theorem walkPath_cons_some {b : Bool} {p : List Bool} {i c : Slot} {s : State}
    (h : (slotAt s.arena i).child b = some c) : walkPath (b :: p) i s = walkPath p c s := by
  simp [walkPath, h]

/-- A level of the insertion walk that creates the child. -/
theorem walkPath_cons_none {b : Bool} {p : List Bool} {i : Slot} {s : State}
    (h : (slotAt s.arena i).child b = none) :
    walkPath (b :: p) i s = (takeSlot s >>= fun r =>
      walkPath p r.1 ((r.2.setChild i b r.1).setLeaf r.1 false)) := by
  simp [walkPath, h]

theorem walkPath_frame {p : List Bool} {i j : Slot} {s t : State}
    (h : walkPath p i s = .ok (j, t)) : OnlyTrie s t := by
  induction p generalizing i s with
  | nil => cases h; rfl
  | cons b p ih =>
    cases hc : (slotAt s.arena i).child b with
    | some c => exact ih (walkPath_cons_some hc ▸ h)
    | none =>
      rw [walkPath_cons_none hc, except_bind_eq_ok] at h
      obtain ⟨⟨c, u⟩, hu, h⟩ := h
      have h1 := ih h
      rw [OnlyTrie, h1, takeSlot_frame hu]; rfl

theorem walkPath_error {p : List Bool} {i : Slot} {s : State} {e : ErrClass}
    (h : walkPath p i s = .error e) : e = .invalidHuffmanTree := by
  induction p generalizing i s with
  | nil => cases h
  | cons b p ih =>
    cases hc : (slotAt s.arena i).child b with
    | some c => exact ih (walkPath_cons_some hc ▸ h)
    | none =>
      rw [walkPath_cons_none hc, except_bind_eq_error] at h
      obtain h | ⟨⟨c, u⟩, -, h⟩ := h
      · exact (takeSlot_eq_error.1 h).2
      · exact ih h

/-- An insertion that succeeds: the leaf's slot, the walk, the attach step. -/
theorem htInsert_eq_ok {sym : U16} {code : U32} {bits : Nat} {s t : State} :
    htInsert sym code bits s = .ok t ↔ bits ≠ 0 ∧ ∃ leafSlot u i v,
      reserveLeaf sym s = .ok (leafSlot, u) ∧
      walkPath (pathBits code bits).dropLast 0 u = .ok (i, v) ∧
      t = v.setChild i (code.getLsbD 0) leafSlot := by
  simp only [htInsert, except_bind_eq_ok, Prod.exists]
  constructor
  · rintro ⟨l, u, h1, h⟩
    split at h
    · cases h
    · rename_i hb
      simp only [except_bind_eq_ok, Prod.exists, Except.ok.injEq] at h
      obtain ⟨i, v, h2, rfl⟩ := h
      exact ⟨hb, l, u, i, v, h1, h2, rfl⟩
  · rintro ⟨hb, l, u, i, v, h1, h2, rfl⟩
    refine ⟨l, u, h1, ?_⟩
    rw [if_neg hb, h2]; rfl

theorem htInsert_frame {sym : U16} {code : U32} {bits : Nat} {s t : State}
    (h : htInsert sym code bits s = .ok t) : OnlyTrie s t := by
  obtain ⟨-, l, u, i, v, h1, h2, rfl⟩ := htInsert_eq_ok.1 h
  rw [walkPath_frame h2, reserveLeaf_frame h1]; rfl

theorem assignEntry_eq_ok {e : CslEntry} {s t : State} :
    assignEntry e s = .ok t ↔ ∃ u,
      htInsert e.sym (s.code <<< (e.len.toNat - s.bits.toNat)) e.len.toNat
        { s with code := s.code <<< (e.len.toNat - s.bits.toNat), bits := e.len.setWidth 32 } = .ok u ∧
      t = { u with code := u.code + 1 } := by
  have hb : (e.len.setWidth 32).toNat = e.len.toNat := by
    simp only [BitVec.toNat_setWidth]; exact Nat.mod_eq_of_lt (by have := e.len.isLt; omega)
  simp only [assignEntry, except_bind_eq_ok, Except.ok.injEq, hb]
  constructor <;> rintro ⟨u, h, h'⟩ <;> exact ⟨u, h, h'.symm⟩

theorem assignEntry_frame {e : CslEntry} {s t : State} (h : assignEntry e s = .ok t) :
    OnlyAssign s t := by
  obtain ⟨u, hu, rfl⟩ := assignEntry_eq_ok.1 h
  rw [htInsert_frame hu]

theorem assignAll_frame {l : List CslEntry} {s t : State} (h : assignAll l s = .ok t) :
    OnlyAssign s t := by
  induction l generalizing s with
  | nil => cases h; rfl
  | cons e l ih =>
    obtain ⟨u, h1, h2⟩ := except_bind_eq_ok.1 h
    exact (assignEntry_frame h1).trans (ih h2)

theorem htExpand_eq_ok {s t : State} :
    htExpand s = .ok t ↔ tableReadable s = true ∧ t = { s with cl := tableLengths s } := by
  unfold htExpand
  cases tableReadable s with
  | false => simp
  | true => simpa using eq_comm

/-- A builder run that succeeds: the table, the list and the trie. -/
theorem builder_eq_ok {s t : State} :
    builder s = .ok t ↔ ∃ u, htExpand s = .ok u ∧ (htSort u).csl ≠ [] ∧ htAssign (htSort u) = .ok t := by
  simp only [builder, except_bind_eq_ok]
  constructor
  · rintro ⟨u, h1, h⟩
    split at h
    · cases h
    · rename_i hn; exact ⟨u, h1, fun h' => hn (by rw [h']; rfl), h⟩
  · rintro ⟨u, h1, hn, h⟩
    exact ⟨u, h1, by rw [if_neg fun h' => hn (List.length_eq_zero_iff.1 h')]; exact h⟩

/-- The builder touches its registers and the arena alone. -/
theorem builder_frame {s t : State} (h : builder s = .ok t) :
    t = { s with cl := t.cl, csl := t.csl, code := t.code, bits := t.bits,
                 nextFree := t.nextFree, arena := t.arena } := by
  obtain ⟨u, h1, -, h2⟩ := builder_eq_ok.1 h
  have h3 : u = { s with cl := u.cl } := by rw [(htExpand_eq_ok.1 h1).2]
  have h4 := assignAll_frame h2
  rw [h4, h3]; rfl

end Sys2Proof.Machine
end

