-- ==== Sys2Proof/Laws/Expander.lean ====
section
/-! SUPPORT. The lz77_expander's sub-steps: what each answers, and what it touches. -/
namespace Sys2Proof.Machine

theorem matchDistance_eq_ok {s t : State} :
    matchDistance s = .ok t ↔ ∃ x, brPeek s.ob.toNat s = .ok x ∧
      t = { s with extra := x, dist := distanceOf s.ob x } := by
  simp only [matchDistance, except_bind_eq_ok, Except.ok.injEq]
  constructor <;> rintro ⟨x, h, h'⟩ <;> exact ⟨x, h, h'.symm⟩

theorem extByte_eq_ok {s t : State} :
    extByte s = .ok t ↔ ∃ e1, memRead1 s s.cursor.toNat = some e1 ∧
      t = { s with mlen := e1.setWidth 32 + 15, cursor := s.cursor + 1 } := by
  simp only [extByte, except_bind_eq_ok, orRaise_eq_ok, Except.ok.injEq]
  constructor <;> rintro ⟨x, h, h'⟩ <;> exact ⟨x, h, h'.symm⟩

theorem extWord_eq_ok {s t : State} :
    extWord s = .ok t ↔ ∃ e2, memRead2 s s.cursor.toNat = some e2 ∧
      t = { s with mlen := e2.setWidth 32, cursor := s.cursor + 2 } := by
  simp only [extWord, except_bind_eq_ok, orRaise_eq_ok, Except.ok.injEq]
  constructor <;> rintro ⟨x, h, h'⟩ <;> exact ⟨x, h, h'.symm⟩

/-- The byte-derived length is 270 exactly for an extension byte of 255 (30 R91). -/
theorem byteLength_eq_escape {e1 : Byte} : e1.setWidth 32 + 15 = (270 : U32) ↔ e1 = 255 := by
  constructor
  · intro h
    have h' := congrArg BitVec.toNat h
    have := e1.isLt
    simp [Nat.mod_eq_of_lt] at h'
    apply BitVec.eq_of_toNat_eq
    simp; omega
  · rintro rfl; rfl

/-- A MATCH_LONG's length touches MLEN and CURSOR alone. -/
theorem longLength_frame {s t : State} (h : longLength s = .ok t) :
    t = { s with mlen := t.mlen, cursor := t.cursor } := by
  obtain ⟨u, hu, h⟩ := except_bind_eq_ok.1 h
  obtain ⟨e1, -, rfl⟩ := extByte_eq_ok.1 hu
  split at h
  · obtain ⟨e2, -, rfl⟩ := extWord_eq_ok.1 h; rfl
  · cases h; rfl

/-- One copied byte: the source byte is appended and COPY_LEFT counts down. -/
theorem copyByte_eq_ok {d : Nat} {s t : State} :
    copyByte d s = .ok t ↔ ∃ b, outRead s ((s.outLen : Int) - d) = some b ∧ hasRoom s 1 = true ∧
      t = { s with out := s.out ++ [b], copyLeft := s.copyLeft - 1 } := by
  simp only [copyByte, except_bind_eq_ok, orRaise_eq_ok, outAppend_eq_ok, Except.ok.injEq]
  constructor
  · rintro ⟨b, hb, u, ⟨hr, rfl⟩, rfl⟩; exact ⟨b, hb, hr, rfl⟩
  · rintro ⟨b, hb, hr, rfl⟩; exact ⟨b, hb, _, ⟨hr, rfl⟩, rfl⟩

/-- The classes a copied byte raises. -/
theorem copyByte_eq_error {d : Nat} {s : State} {e : ErrClass} :
    copyByte d s = .error e ↔
      (outRead s ((s.outLen : Int) - d) = none ∧ e = .invalidBackReference) ∨
      ((∃ b, outRead s ((s.outLen : Int) - d) = some b) ∧ hasRoom s 1 = false ∧ e = .outputOverflow) := by
  simp only [copyByte, except_bind_eq_error, orRaise_eq_ok, orRaise_eq_error, outAppend_eq_error]
  constructor
  · rintro (⟨h, rfl⟩ | ⟨b, hb, h | ⟨u, -, h⟩⟩)
    · exact .inl ⟨h, rfl⟩
    · exact .inr ⟨⟨b, hb⟩, h⟩
    · cases h
  · rintro (⟨h, rfl⟩ | ⟨⟨b, hb⟩, h⟩)
    · exact .inl ⟨h, rfl⟩
    · exact .inr ⟨b, hb, .inl h⟩

theorem copyLoop_zero (d : Nat) (s : State) : copyLoop 0 d s = .ok s := rfl

theorem copyLoop_succ (n d : Nat) (s : State) :
    copyLoop (n + 1) d s = copyByte d s >>= copyLoop n d := rfl

/-- A copy touches OUT and COPY_LEFT alone, keeps the bytes OUT had and appends one byte a turn. -/
theorem copyLoop_frame {n d : Nat} {s t : State} (h : copyLoop n d s = .ok t) :
    t = { s with out := t.out, copyLeft := t.copyLeft } ∧ s.out <+: t.out ∧
      t.out.length = s.out.length + n := by
  induction n generalizing s with
  | zero => cases h; exact ⟨rfl, List.prefix_refl _, rfl⟩
  | succ n ih =>
    rw [copyLoop_succ, except_bind_eq_ok] at h
    obtain ⟨u, hu, h⟩ := h
    obtain ⟨b, -, -, rfl⟩ := copyByte_eq_ok.1 hu
    obtain ⟨h1, h2, h3⟩ := ih h
    refine ⟨by rw [h1], (List.prefix_append _ _).trans h2, ?_⟩
    rw [h3]; simp; omega

/-- The end of a match touches the window, OUT and COPY_LEFT alone. -/
theorem finishMatch_frame {s t : State} (h : finishMatch s = .ok t) :
    t = { s with mask := t.mask, avail := t.avail, cursor := t.cursor, out := t.out,
                 copyLeft := t.copyLeft } ∧ s.out <+: t.out := by
  obtain ⟨u, hu, h⟩ := except_bind_eq_ok.1 h
  have hf := brSkip_frame hu
  obtain ⟨h1, h2, -⟩ := copyLoop_frame h
  refine ⟨by rw [h1, hf], ?_⟩
  have : u.out = s.out := by rw [hf]
  simpa [this] using h2

end Sys2Proof.Machine
end

