-- ==== Sys2Proof/Laws/PerInstr.lean ====
section
/-! SUPPORT. A statement per instruction as syntax: a well-formed token's symbol lies in its own row of
the opcode table. -/
namespace Sys2Proof.Laws.RowMatch

/-- The symbol of a well-formed token matches the row of its own mnemonic, and no row before it. -/
def Statement (i : Instr) : Prop :=
  i.wf = true → tableMnemonic (encodeSymbol i) = some i.mnemonic

theorem lit (b : Byte) : Statement (.lit b) := fun _ => by revert b; decide

theorem eos : Statement .eos := fun _ => by decide

theorem matchTok (ob lc : Nibble) : Statement (.matchTok ob lc) := by
  revert ob lc; unfold Statement; decide

theorem matchLong (ob : Nibble) : Statement (.matchLong ob) := fun _ => by revert ob; decide

end Sys2Proof.Laws.RowMatch
end

