-- ==== Sys2Proof/Laws/SymbolDecoder.lean ====
section
/-! SUPPORT. The trie_symbol_decoder's walk. -/
namespace Sys2Proof.Machine

/-- `t` differs from `s` only in the window and NODE. -/
abbrev OnlyWalk (s t : State) : Prop :=
  t = { s with mask := t.mask, avail := t.avail, cursor := t.cursor, node := t.node }

/-- A level that succeeds: the bit peeked, the skip, the child. -/
theorem tdStep_eq_ok {s t : State} :
    tdStep s = .ok t ↔ ∃ b u c, brPeek 1 s = .ok b ∧ brSkip 1 s = .ok u ∧
      (slotAt u.arena u.node).child (b != 0) = some c ∧ t = { u with node := c } := by
  simp only [tdStep, except_bind_eq_ok]
  constructor
  · rintro ⟨b, hb, u, hu, h⟩
    split at h
    · cases h
    · rename_i c hc; cases h; exact ⟨b, u, c, hb, hu, hc, rfl⟩
  · rintro ⟨b, u, c, hb, hu, hc, rfl⟩
    exact ⟨b, hb, u, hu, by rw [hc]⟩

theorem tdStep_frame {s t : State} (h : tdStep s = .ok t) : OnlyWalk s t := by
  obtain ⟨b, u, c, -, hu, -, rfl⟩ := tdStep_eq_ok.1 h
  rw [OnlyWalk, brSkip_frame hu]

/-- The classes a level raises. -/
theorem tdStep_error {s : State} {e : ErrClass} (h : tdStep s = .error e) :
    e = .bitUnderflow ∨ e = .invalidTrieWalk := by
  simp only [tdStep, except_bind_eq_error] at h
  obtain h | ⟨b, -, h | ⟨u, -, h⟩⟩ := h
  · exact .inl (brPeek_eq_error.1 h).2.2
  · exact .inl (brSkip_error h)
  · split at h
    · cases h; exact .inr rfl
    · cases h

theorem tdWalk_zero (s : State) : tdWalk 0 s = .error .invalidTrieWalk := rfl

/-- A level of the walk that ends at a leaf. -/
theorem tdWalk_leaf {n : Nat} {s t : State} (h : tdStep s = .ok t) (hl : t.leafFlag t.node = true) :
    tdWalk (n + 1) s = .ok { t with sym := (slotAt t.arena t.node).sym.setWidth 9 } := by
  simp [tdWalk, h, hl]

/-- A level of the walk that goes on. -/
theorem tdWalk_inner {n : Nat} {s t : State} (h : tdStep s = .ok t) (hl : t.leafFlag t.node = false) :
    tdWalk (n + 1) s = tdWalk n t := by
  simp [tdWalk, h, hl]

theorem tdWalk_fail {n : Nat} {s : State} {e : ErrClass} (h : tdStep s = .error e) :
    tdWalk (n + 1) s = .error e := by
  simp [tdWalk, h]

/-- A walk that succeeds touches only the window, NODE and SYM, and ends at a leaf with that SYM. -/
theorem tdWalk_ok {n : Nat} {s t : State} (h : tdWalk n s = .ok t) :
    t = { s with mask := t.mask, avail := t.avail, cursor := t.cursor, node := t.node,
                 sym := (fetchedWord t).setWidth 9 } ∧ t.leafFlag t.node = true := by
  induction n generalizing s with
  | zero => cases h
  | succ n ih =>
    cases hs : tdStep s with
    | error e => rw [tdWalk_fail hs] at h; cases h
    | ok u =>
      have hf := tdStep_frame hs
      cases hl : u.leafFlag u.node with
      | true =>
        rw [tdWalk_leaf hs hl] at h; cases h
        exact ⟨by rw [hf]; rfl, hl⟩
      | false =>
        rw [tdWalk_inner hs hl] at h
        obtain ⟨h1, h2⟩ := ih h
        exact ⟨h1.trans (by rw [hf]), h2⟩

/-- TD_DECODE touches only the window, NODE and SYM. -/
theorem tdDecode_ok {s t : State} (h : tdDecode s = .ok t) :
    t = { s with mask := t.mask, avail := t.avail, cursor := t.cursor, node := t.node,
                 sym := (fetchedWord t).setWidth 9 } ∧ t.leafFlag t.node = true := by
  obtain ⟨h1, h2⟩ := tdWalk_ok h
  exact ⟨h1, h2⟩

/-- The classes TD_DECODE raises. -/
theorem tdWalk_error {n : Nat} {s : State} {e : ErrClass} (h : tdWalk n s = .error e) :
    e = .bitUnderflow ∨ e = .invalidTrieWalk := by
  induction n generalizing s with
  | zero => cases h; exact .inr rfl
  | succ n ih =>
    cases hs : tdStep s with
    | error e' => rw [tdWalk_fail hs] at h; cases h; exact tdStep_error hs
    | ok u =>
      cases hl : u.leafFlag u.node with
      | true => rw [tdWalk_leaf hs hl] at h; cases h
      | false => rw [tdWalk_inner hs hl] at h; exact ih h

end Sys2Proof.Machine
end

