-- ==== Sys2Proof/Laws/Step.lean ====
section
/-! SUPPORT. The step, said once: who moves, and what each move can answer. -/
namespace Sys2Proof.Machine

theorem step_of_host_nil {s : State} (h : s.host = []) : step s = engineStep s := by
  simp [step, h]

theorem step_of_host_cons {s : State} {e : HostEvent} {rest : List HostEvent}
    (h : s.host = e :: rest) : step s = hostMove e { s with host := rest } := by
  simp [step, h]

/-- Every meaning concludes a rule, so it answers a next state. -/
theorem exec_answers_next (i : Instr) (s : State) : ∃ t, exec i s = .next t := by
  have h : ∀ r : Except ErrClass State, ∃ t, conclude s r = .next t := fun r => by
    obtain ⟨t, -, h⟩ | ⟨e, -, h⟩ := conclude_cases s r
    · exact ⟨t, h⟩
    · exact ⟨_, h⟩
  cases i <;> exact h _

/-- What START can answer. -/
theorem hostStart_cases (o : Nat) (n : U32) (l : Nat) (s : State) :
    (s.busy = true ∧ hostStart o n l s = .refused .startWhileBusy) ∨
    (s.busy = false ∧ ((∃ e, startChecks (startLatch o n l s) = .error e ∧
        hostStart o n l s = .next (abort e (startLatch o n l s))) ∨
      (startChecks (startLatch o n l s) = .ok (startLatch o n l s) ∧
        hostStart o n l s = .next (startLatch o n l s)))) := by
  have hc : ∀ u : State, startChecks u = .ok u ∨ ∃ e, startChecks u = .error e := fun u => by
    unfold startChecks
    split
    · exact .inr ⟨_, rfl⟩
    · split
      · exact .inr ⟨_, rfl⟩
      · exact .inl rfl
  cases hb : s.busy with
  | true => exact .inl ⟨rfl, by simp [hostStart, hb]⟩
  | false =>
    refine .inr ⟨rfl, ?_⟩
    obtain h | ⟨e, h⟩ := hc (startLatch o n l s)
    · exact .inr ⟨h, by simp [hostStart, hb, h]⟩
    · exact .inl ⟨e, h, by simp [hostStart, hb, h]⟩

/-- What a host store can answer. -/
theorem hostStore_cases (a : Nat) (b : Byte) (s : State) :
    hostStore a b s = .refused .regionChangedWhileBusy ∨
    hostStore a b s = .next { s with src := Memory.write s.src a b } := by
  unfold hostStore; split
  · exact .inl rfl
  · exact .inr rfl

/-- What the TOKEN phase can answer. -/
theorem tokenStep_cases (s : State) :
    (∃ e, tdDecode s = .error e ∧ tokenStep s = .next (abort e s)) ∨
    (∃ t, tdDecode s = .ok t ∧
      ((decode (fetchedWord t) = .error .symbolOutOfRange ∧
          tokenStep s = .refused .symbolOutOfRange) ∨
       ∃ i, decode (fetchedWord t) = .ok i ∧ tokenStep s = exec i t)) := by
  cases h : tdDecode s with
  | error e => exact .inl ⟨e, rfl, by simp [tokenStep, h]⟩
  | ok t =>
    refine .inr ⟨t, rfl, ?_⟩
    cases hd : decode (fetchedWord t) with
    | error e => cases e; exact .inl ⟨rfl, by simp [tokenStep, h, execFetched, hd]⟩
    | ok i => exact .inr ⟨i, rfl, by simp [tokenStep, h, execFetched, hd]⟩

/-- What the BUILD phase can answer. -/
theorem buildStep_cases (s : State) :
    (∃ e, builder s = .error e ∧ buildStep s = .next (abort e s)) ∨
    (∃ t, builder s = .ok t ∧ buildStep s = .next { t with phase := .init }) := by
  cases h : builder s with
  | error e => exact .inl ⟨e, rfl, by simp [buildStep, h]⟩
  | ok t => exact .inr ⟨t, rfl, by simp [buildStep, h]⟩

/-- What the INIT phase can answer. -/
theorem initStep_cases (s : State) :
    (∃ e, brInit s = .error e ∧ initStep s = .next (abort e s)) ∨
    (∃ t, brInit s = .ok t ∧ initStep s = .next { t with phase := .token }) := by
  cases h : brInit s with
  | error e => exact .inl ⟨e, rfl, by simp [initStep, h]⟩
  | ok t => exact .inr ⟨t, rfl, by simp [initStep, h]⟩

theorem busy_iff {s : State} : s.busy = true ↔ s.phase = .build ∨ s.phase = .init ∨ s.phase = .token := by
  unfold State.busy State.status
  cases s.phase <;> simp [Phase.status]

end Sys2Proof.Machine
end

