-- ==== Sys2Proof/Laws/Trie.lean ====
section
/-! SUPPORT. The small lemmas of the terms the builder's claims use: paths, canonical codes, and trees
without an arena. -/
namespace Sys2Proof.Machine

@[simp] theorem length_pathBits (code : U32) (bits : Nat) : (pathBits code bits).length = bits := by
  simp [pathBits]

theorem fallsOff_cons_some {a : Vector Node 1024} {i c : Slot} {b : Bool} {p : List Bool}
    (h : (slotAt a i).child b = some c) :
    fallsOff a i (b :: p) = (!(slotAt a c).leaf && fallsOff a c p) := by simp [fallsOff, h]

theorem fallsOff_cons_none {a : Vector Node 1024} {i : Slot} {b : Bool} {p : List Bool}
    (h : (slotAt a i).child b = none) : fallsOff a i (b :: p) = p.isEmpty := by simp [fallsOff, h]

/-! ### The nodes an insertion creates in an arena -/

@[simp] theorem newNodes_nil (a : Vector Node 1024) (i : Slot) : newNodes a i [] = 0 := rfl

theorem newNodes_cons_some {a : Vector Node 1024} {i c : Slot} {b : Bool} {p : List Bool}
    (h : (slotAt a i).child b = some c) : newNodes a i (b :: p) = newNodes a c p := by
  simp [newNodes, h]

theorem newNodes_cons_none {a : Vector Node 1024} {i : Slot} {b : Bool} {p : List Bool}
    (h : (slotAt a i).child b = none) : newNodes a i (b :: p) = p.length + 1 := by
  simp [newNodes, h]

theorem newNodes_le_length (a : Vector Node 1024) (i : Slot) (p : List Bool) :
    newNodes a i p ≤ p.length := by
  induction p generalizing i with
  | nil => simp
  | cons b p ih =>
    cases h : (slotAt a i).child b with
    | none => simp [newNodes_cons_none h]
    | some c => rw [newNodes_cons_some h]; exact (ih c).trans (Nat.le_succ _)

/-! ### Canonical codes -/

@[simp] theorem canonicalCodes_nil (code bits : Nat) : canonicalCodes [] code bits = [] := rfl

theorem canonicalCodes_cons (e : CslEntry) (l : List CslEntry) (code bits : Nat) :
    canonicalCodes (e :: l) code bits =
      (e, code * 2 ^ (e.len.toNat - bits)) ::
        canonicalCodes l (code * 2 ^ (e.len.toNat - bits) + 1) e.len.toNat := rfl

/-- Every entry of the list has its code, in the list's order. -/
@[simp] theorem map_fst_canonicalCodes (l : List CslEntry) (code bits : Nat) :
    (canonicalCodes l code bits).map Prod.fst = l := by
  induction l generalizing code bits with
  | nil => rfl
  | cons e l ih => simp [canonicalCodes_cons, ih]

@[simp] theorem length_canonicalCodes (l : List CslEntry) (code bits : Nat) :
    (canonicalCodes l code bits).length = l.length := by
  rw [← List.length_map (f := Prod.fst), map_fst_canonicalCodes]

@[simp] theorem length_codePaths (cl : Vector Nibble 512) :
    (codePaths cl).length = (canonicalList cl).length := by
  simp [codePaths]

/-! ### Trees -/

@[simp] theorem Shape.child_empty (b : Bool) : Shape.empty.child b = .empty := rfl

@[simp] theorem Shape.child_bare (b : Bool) : Shape.bare.child b = .empty := by cases b <;> rfl

@[simp] theorem Shape.child_setChild_self (t c : Shape) (b : Bool) : (t.setChild b c).child b = c := by
  cases t <;> cases b <;> rfl

@[simp] theorem Shape.child_setChild_not (t c : Shape) (b : Bool) :
    (t.setChild b c).child (!b) = t.child (!b) := by cases t <;> cases b <;> rfl

@[simp] theorem Shape.insert_nil (t : Shape) : t.insert [] = .bare := by cases t <;> rfl

theorem Shape.insert_cons (t : Shape) (b : Bool) (p : List Bool) :
    t.insert (b :: p) = t.setChild b ((t.child b).insert p) := by cases t <;> rfl

@[simp] theorem Shape.newNodes_nil (t : Shape) : t.newNodes [] = 0 := by cases t <;> rfl

theorem Shape.newNodes_cons_empty {t : Shape} {b : Bool} {p : List Bool} (h : t.child b = .empty) :
    t.newNodes (b :: p) = p.length + 1 := by simp [Shape.newNodes, h]

theorem Shape.newNodes_cons {t : Shape} {b : Bool} {p : List Bool} (h : t.child b ≠ .empty) :
    t.newNodes (b :: p) = (t.child b).newNodes p := by
  cases hc : t.child b with
  | empty => exact absurd hc h
  | node l r => simp [Shape.newNodes, hc]

end Sys2Proof.Machine
end

