-- ==== Sys2Proof/Tests/Slice0.lean ====
section
/-! SUPPORT. The model's own tests: the well-formedness smoke, decoding of words written out from the
spec's bit patterns, vectors of spec/95_test_vectors.md, and for every statement with hypotheses a
state and operands that meet them. -/
namespace Sys2Proof.Tests
open Sys2Proof.Machine

/-! ### Well-formedness -/

theorem test_wf_refuses_match_with_code_15 : (Instr.matchTok 3 15).wf = false := by decide
theorem test_wf_refuses_match_of_symbol_256 : (Instr.matchTok 0 0).wf = false := by decide
theorem test_wf_accepts_smallest_match : (Instr.matchTok 0 1).wf = true := by decide

/-! ### Decoding: 30 R85's patterns, bit by bit -/

/-- `0bbbbbbbb`, b = 0x41. -/
theorem test_decode_lit : decodeSymbol 0b001000001#9 = .lit 0x41 := by decide
/-- `100000000`. -/
theorem test_decode_eos : decodeSymbol 0b100000000#9 = .eos := by decide
/-- `1oooollll`, o = 0001, l = 0000: symbol 272, "MATCH with OB = 1 and LC = 0". -/
theorem test_decode_match : decodeSymbol 0b100010000#9 = .matchTok 1 0 := by decide
/-- `1oooo1111`, o = 0010: symbol 303, "MATCH_LONG with OB = 2 and LC = 15". -/
theorem test_decode_matchLong : decodeSymbol 0b100101111#9 = .matchLong 2 := by decide
theorem test_encode_match : encode (.matchTok 1 0) = 272#16 := by decide
theorem test_encode_matchLong : encode (.matchLong 2) = 303#16 := by decide
theorem test_table_word_above_511 : decodeTableWord 16 512 = none := by decide

/-! ### Helpers -/

/-- A rule answers a state with a property. -/
def answers (r : Except ErrClass State) (p : State → Bool) : Bool :=
  match r with
  | .ok t => p t
  | .error _ => false

/-- A rule raises a class. -/
def raises (r : Except ErrClass State) (e : ErrClass) : Bool :=
  match r with
  | .ok _ => false
  | .error e' => decide (e' = e)

/-- A step answers a next state with a property. -/
def nextIs (o : Host.Outcome State Fault Refusal) (p : State → Bool) : Bool :=
  match o with
  | .next t => p t
  | _ => false

/-- A step is refused for a reason. -/
def refusedWith (o : Host.Outcome State Fault Refusal) (r : Refusal) : Bool :=
  match o with
  | .refused r' => decide (r' = r)
  | _ => false

/-- A running decode: a region of `len` bytes, CURSOR at 260, a window, the bytes of OUT. -/
def live (len : U32) (mask avail : U32) (out : List Byte) : State :=
  { State.reset with
    phase := .token, inputLength := len, srcLen := len.toNat, cursor := 260,
    mask := mask, avail := avail, out := out }

/-- `live` with the bytes at region index 260 on. -/
def liveWith (len mask avail : U32) (out : List Byte) (bytes : List (Nat × Byte)) : State :=
  { live len mask avail out with src := bytes }

/-- About to decode the symbol word `w`. -/
def fetching (w : Nat) : State := State.reset.withFetchWord 16 w

/-! ### One step each (spec/95_test_vectors.md; the vector's name first) -/

/-- X1. -/
theorem test_lit_appends : nextIs (exec (.lit 0x41) State.reset) (·.out == [0x41]) = true := by decide
/-- X16: MisalignedEnd is 8. -/
theorem test_eos_before_end : nextIs (exec .eos (live 262 0 16 [1]))
    (fun t => t.phase == .doneErr && t.errCode == 8 && t.out == []) = true := by decide
/-- X4: distance 3 by an extra bit 1. -/
theorem test_match_extra_bit : nextIs (exec (.matchTok 1 0) (live 260 0x80000000 17 [0x61, 0x62, 0x63]))
    (fun t => t.out == [0x61, 0x62, 0x63, 0x61, 0x62, 0x63] && t.dist == 3) = true := by decide
/-- X8: E1 = 255, then E2 = 7 overrides: MLEN 7, copy 10, CURSOR 263. -/
theorem test_matchLong_override : nextIs (exec (.matchLong 0)
    (liveWith 263 0 30 [0x61] [(260, 0xff), (261, 7)]))
    (fun t => t.out.length == 11 && t.cursor == 263 && t.mlen == 7) = true := by decide
/-- X14: TruncatedExtraLength is 7. -/
theorem test_matchLong_truncated : nextIs (exec (.matchLong 0)
    (liveWith 262 0 30 [0x61] [(260, 0xff), (261, 7)])) (·.errCode == 7) = true := by decide
/-- X17: with OUT_CAP 5 the fifth byte of the copy overflows (9), with 6 it fits. -/
theorem test_match_cap : nextIs (exec (.matchTok 0 2) { live 260 0 16 [0x41] with outCap := some 5 })
    (·.errCode == 9) = true ∧
    nextIs (exec (.matchTok 0 2) { live 260 0 16 [0x41] with outCap := some 6 })
    (·.out.length == 6) = true := by decide

/-- B5: the refill lands below the 15 valid bits. -/
theorem test_skip_refills : answers (brSkip 13 (liveWith 262 0x23456780 28 [] [(260, 0xef), (261, 0xbe)]))
    (fun t => t.mask == 0xACF17DDE && t.avail == 31 && t.cursor == 262) = true := by decide
/-- B7: one bit left before the refill. -/
theorem test_skip_fifteen : answers (brSkip 15 (liveWith 262 0xABCD0000 16 [] [(260, 0xff), (261, 0xff)]))
    (fun t => t.mask == 0xFFFF8000 && t.avail == 17) = true := by decide
/-- B10: BitUnderflow where the word does not fit the region. -/
theorem test_skip_underflow : raises (brSkip 1 { live 261 0 16 [] with cursor := 260 }) .bitUnderflow = true := by
  decide
/-- B1. -/
theorem test_init : answers (brInit (liveWith 260 0 0 [] [(256, 0x34), (257, 0x12), (258, 0x78), (259, 0x56)]))
    (fun t => t.mask == 0x12345678 && t.avail == 32 && t.cursor == 260) = true := by decide
/-- H5: the third code of {0:1, 1:1, 2:1} overwrites the first leaf. -/
theorem test_oversubscribed_overwrite :
    answers (htAssign { State.reset with csl := [⟨0, 1⟩, ⟨1, 1⟩, ⟨2, 1⟩] })
    (fun t => lookup t.arena 0 [false] == some 2 && lookup t.arena 0 [true] == some 1) = true := by decide
/-- H6: the fourth code of {0:1, 1:2, 2:2, 3:2} hides below the leaf of symbol 0. -/
theorem test_oversubscribed_shadow :
    answers (htAssign { State.reset with csl := [⟨0, 1⟩, ⟨1, 2⟩, ⟨2, 2⟩, ⟨3, 2⟩] })
    (fun t => lookup t.arena 0 [false] == some 0 && lookup t.arena 0 [false, false] == none &&
      lookup t.arena 0 [true, true] == some 2) = true := by decide
/-- 41 R143: the slots of 512 symbols of length 15, and of 512 symbols of length 9. -/
theorem test_slots_needed : slotsNeeded (Vector.replicate 512 15) = 1029 ∧
    slotsNeeded (Vector.replicate 512 9) = 1023 := by decide +kernel
/-- 41 R133's example: {0: 2, 1: 2, 256: 2} has the codes 00, 01 and 10. -/
theorem test_canonical_codes : (canonicalCodes [⟨0, 2⟩, ⟨1, 2⟩, ⟨256, 2⟩] 0 1).map
    (fun p => (p.2, pathBits (BitVec.ofNat 32 p.2) 2)) =
    [(0, [false, false]), (1, [false, true]), (2, [true, false])] := by decide
/-- S3: TE's path 1 has no child. -/
theorem test_walk_missing_child : raises (tdDecode { fetching 256 with mask := 0x80000000 })
    .invalidTrieWalk = true := by decide
/-- O1, O3: InputTooLarge is 1, TruncatedTable is 2. -/
theorem test_start_checks : nextIs (hostStart 0 16777217 999 State.reset) (·.errCode == 1) = true ∧
    nextIs (hostStart 0 255 255 State.reset) (·.errCode == 2) = true := by decide
/-- 10 R29's example, 41 R130: byte 0 = 0x22, byte 128 = 0x02. -/
theorem test_table_nibbles : tableNibble 0x22 0 = 2 ∧ tableNibble 0x22 1 = 2 ∧
    tableNibble 0x02 256 = 2 ∧ tableNibble 0x02 257 = 0 := by decide

/-! ### The first step after a reset with an instruction placed -/

theorem test_fetch_and_run_each_token :
    nextIs (step (fetching 0x41)) (·.out == [0x41]) = true ∧
    nextIs (step (fetching 0x100)) (·.phase == .doneOk) = true ∧
    nextIs (step { fetching 0x102 with out := [7] }) (·.out == [7, 7, 7, 7, 7, 7]) = true ∧
    nextIs (step { fetching 0x10F with out := [7] })
      (fun t => t.out.length == 19 && t.cursor == 261) = true := by decide

/-! ### Witnesses: for each statement with hypotheses, a state and operands that meet them -/

/-- The `live` states the witnesses use keep the window invariant. -/
theorem live_windowOk : WindowOk (live 262 0xC0010000 16 [1, 2]) :=
  ⟨by decide, by decide, by decide, by decide, by decide⟩

theorem live32_windowOk : WindowOk (live 300 0xC0010000 32 []) :=
  ⟨by decide, by decide, by decide, by decide, by decide⟩

theorem fetching_windowOk : WindowOk (fetching 0x41) :=
  ⟨by decide, by decide, by decide, by decide, by decide⟩

/-- The one-symbol trie is one the decoder can walk. -/
theorem fetching_arenaOk : ArenaOk (fetching 0x41).arena where
  symbols i := by
    have h : (fetching 0x41).arena = oneSymbolArena 0x41 := rfl
    rw [h, oneSymbolArena, slotAt_setSlot]
    split
    · decide
    · rw [slotAt_setSlot]
      split
      · decide
      · rw [slotAt_freshArena]; decide
  root := by decide
  depth path h := by
    match path, h with
    | b :: p, _ =>
      cases b with
      | false =>
        have h1 : (slotAt (fetching 0x41).arena 0).child false = some 1 := by decide
        have h2 : (slotAt (fetching 0x41).arena 1).leaf = true := by decide
        simp [stops, h1, h2]
      | true =>
        have h1 : (slotAt (fetching 0x41).arena 0).child true = none := by decide
        simp [stops, h1]

theorem witness_EachDistanceHasOneEncoding :
    (distanceOf 0 0).toNat = 1 ∧ (distanceOf 15 32767).toNat = 65535 ∧
    (0 : U32).toNat < 2 ^ (0 : Nibble).toNat ∧ (32767 : U32).toNat < 2 ^ (15 : Nibble).toNat := by decide

theorem witness_StepExecutesTheDecodedToken :
    (fetching 0x41).phase = .token ∧ (fetching 0x41).host = [] ∧
    answers (tdDecode (fetching 0x41)) (fun t => match decode (fetchedWord t) with
      | .ok i => decide (i = .lit 0x41)
      | .error _ => false) = true ∧
    (live 260 0 32 []).phase = .token ∧ (live 260 0 32 []).host = [] ∧
    raises (tdDecode (live 260 0 32 [])) .invalidTrieWalk = true := by decide

theorem witness_SymbolAbove511IsRefused :
    (fetching 512).phase = .token ∧ (fetching 512).host = [] ∧
    answers (tdDecode (fetching 512)) (fun t => decide (512 ≤ (fetchedWord t).toNat)) = true := by decide

/-- The three cases of a level: no refill to be had, a missing child, a child. -/
theorem witness_WalkLevelSkipsThenLooksUp :
    canSkip 1 (live 260 0 16 []) = false ∧
    (canSkip 1 (live 260 0 17 []) = true ∧ (slotAt (live 260 0 17 []).arena 0).child false = none) ∧
    (canSkip 1 (fetching 0x41) = true ∧ (slotAt (fetching 0x41).arena 0).child false = some 1) := by decide

theorem witness_WalkConsumesExactlyOneCode :
    WindowOk (fetching 0x41) ∧ answers (tdDecode (fetching 0x41)) (fun _ => true) = true :=
  ⟨fetching_windowOk, by decide⟩

theorem witness_WalkFindsTheSymbolOfTheNextBits :
    WindowOk (fetching 0x41) ∧ [false].length ≤ 15 ∧ lookup (fetching 0x41).arena 0 [false] = some 0x41 ∧
    [false] <+: pendingBits (fetching 0x41) ∧ canSkip [false].length (fetching 0x41) = true :=
  ⟨fetching_windowOk, by decide, by decide, by decide, by decide⟩

/-- The path 1 has no child: with a bit to spare, and without. The path 0 ends at a leaf, without. -/
theorem witness_WalkToAMissingChildFails :
    (WindowOk { fetching 0x41 with mask := 0x80000000 } ∧
      [true] <+: pendingBits { fetching 0x41 with mask := 0x80000000 } ∧
      fallsOff (fetching 0x41).arena 0 [true] = true ∧
      canSkip [true].length { fetching 0x41 with mask := 0x80000000 } = true) ∧
    (WindowOk { fetching 0x41 with mask := 0x80000000, avail := 16 } ∧
      [true] <+: pendingBits { fetching 0x41 with mask := 0x80000000, avail := 16 } ∧
      canSkip [true].length { fetching 0x41 with mask := 0x80000000, avail := 16 } = false) ∧
    (WindowOk { fetching 0x41 with avail := 16 } ∧ [false] <+: pendingBits { fetching 0x41 with avail := 16 } ∧
      (lookup (fetching 0x41).arena 0 [false]).isSome = true ∧
      canSkip [false].length { fetching 0x41 with avail := 16 } = false) :=
  ⟨⟨⟨by decide, by decide, by decide, by decide, by decide⟩, by decide, by decide, by decide⟩,
   ⟨⟨by decide, by decide, by decide, by decide, by decide⟩, by decide, by decide⟩,
   ⟨⟨by decide, by decide, by decide, by decide, by decide⟩, by decide, by decide, by decide⟩⟩

theorem witness_WalkBoundIsNeverReached : ArenaOk (fetching 0x41).arena ∧ 15 ≤ 15 :=
  ⟨fetching_arenaOk, by decide⟩

/-- With OUT_CAP unbounded, exactly reached, and exceeded. -/
theorem witness_LitAppendsItsByte :
    State.reset.outCap = none ∧
    ((live 260 0 16 [1]).out.length + 1 ≤ 2) ∧ (1 < (live 260 0 16 [1]).out.length + 1) := by decide

theorem witness_EosSucceedsExactlyAtTheEnd :
    (live 260 0 16 []).cursor = (live 260 0 16 []).inputLength ∧
    (live 261 0 16 []).cursor ≠ (live 261 0 16 []).inputLength := by decide

/-- With a refill, and a distance of exactly OUT_LEN: extra bit 1, distance 3. -/
theorem witness_MatchCopiesItsBytes :
    (Instr.matchTok 1 14).wf = true ∧ canSkip 1 (live 262 0xC0010000 16 [1, 2, 3]) = true ∧
    matchDist 1 (live 262 0xC0010000 16 [1, 2, 3]) ≤ (live 262 0xC0010000 16 [1, 2, 3]).out.length ∧
    hasRoom (live 262 0xC0010000 16 [1, 2, 3]) 17 = true := by decide

/-- Both forms of the length: E1 = 254, and E1 = 255 with E2 = 0. -/
theorem witness_MatchLongCopiesItsBytes :
    (LongOperand (liveWith 261 0 16 [1] [(260, 254)]) 261 269 ∧
      canSkip 0 { liveWith 261 0 16 [1] [(260, 254)] with cursor := 261 } = true ∧
      matchDist 0 (liveWith 261 0 16 [1] [(260, 254)]) ≤ 1 ∧
      hasRoom (liveWith 261 0 16 [1] [(260, 254)]) 272 = true) ∧
    (LongOperand (liveWith 263 0 16 [1] [(260, 255)]) 263 0 ∧
      canSkip 0 { liveWith 263 0 16 [1] [(260, 255)] with cursor := 263 } = true ∧
      matchDist 0 (liveWith 263 0 16 [1] [(260, 255)]) ≤ 1 ∧
      hasRoom (liveWith 263 0 16 [1] [(260, 255)]) 3 = true) :=
  ⟨⟨.inl ⟨254, by decide, by decide, by decide, by decide⟩, by decide, by decide, by decide⟩,
   ⟨.inr ⟨by decide, 0, by decide, by decide, by decide⟩, by decide, by decide, by decide⟩⟩

theorem witness_MatchFailsInOrder :
    (Instr.matchTok 1 0).wf = true ∧ canSkip 1 (live 260 0 16 []) = false ∧
    (canSkip 1 (live 260 0 17 [1]) = true ∧ [(1 : Byte)].length < matchDist 1 (live 260 0 17 [1])) ∧
    (matchDist 1 (live 260 0 17 [1, 2]) ≤ [(1 : Byte), 2].length ∧
      hasRoom { live 260 0 17 [1, 2] with outCap := some 4 } 3 = false) := by decide

theorem witness_MatchLongFailsInOrder :
    memRead1 (live 260 0 16 []) 260 = none ∧
    (memRead1 (liveWith 262 0 16 [] [(260, 255)]) 260 = some 255 ∧
      memRead2 (liveWith 262 0 16 [] [(260, 255)]) 261 = none) ∧
    ((1 : Nibble).toNat : Int) ≤ availNum (live 261 0 16 []) ∧
    LongOperand (live 261 0 16 []) 261 15 ∧ canSkip 1 { live 261 0 16 [] with cursor := 261 } = false ∧
    (canSkip 1 { live 261 0 17 [1] with cursor := 261 } = true ∧ 1 < matchDist 1 (live 261 0 17 [1])) ∧
    (matchDist 1 (live 261 0 17 [1, 2]) ≤ 2 ∧
      hasRoom { live 261 0 17 [1, 2] with outCap := some 19 } 18 = false) :=
  ⟨by decide, by decide, by decide, .inl ⟨0, by decide, by decide, by decide, by decide⟩,
   by decide, by decide, by decide⟩

/-- Every token answers a next state (`exec_answers_next`), here one of each. -/
theorem witness_TokensLeaveTheRestUnchanged :
    nextIs (exec (.lit 1) State.reset) (fun _ => true) = true ∧
    nextIs (exec .eos State.reset) (fun _ => true) = true ∧
    nextIs (exec (.matchTok 0 2) (live 260 0 16 [1])) (fun t => t.phase == .token) = true ∧
    nextIs (exec (.matchLong 0) (live 261 0 16 [1])) (fun t => t.phase == .token) = true := by decide

theorem witness_OutputOnlyGrowsUnlessTheDecodeFails :
    (live 260 0 16 [1]).phase = .token ∧
    nextIs (exec (.lit 2) (live 260 0 16 [1])) (fun t => t.phase == .token) = true ∧
    nextIs (exec (.matchTok 1 0) (live 260 0 32 [1])) (fun t => t.phase == .doneErr) = true := by decide

theorem witness_CopyRepeatsThePattern :
    1 ≤ (1 : U32).toNat ∧ (1 : U32).toNat ≤ (live 260 0 16 [1]).out.length ∧
    hasRoom { live 260 0 16 [1] with outCap := some 65539 } (65538 : U32).toNat = true := by decide

theorem witness_BackReferenceFailsExactlyBeforeTheStart :
    1 ≤ (2 : U32).toNat ∧ 1 ≤ (3 : U32).toNat ∧ raises (copy 2 3 (live 260 0 16 [1])) .invalidBackReference = true ∧
    raises (copy 2 3 (live 260 0 16 [1, 2])) .invalidBackReference = false := by decide

theorem witness_UnboundedOutputNeverOverflows :
    (fetching 0x41).outCap = none ∧ (fetching 0x41).errCode = 0 ∧
    nextIs (engineStep (fetching 0x41)) (fun _ => true) = true := by decide

theorem witness_InitLoadsTheFirstTwoWords :
    ({ live 260 0 0 [] with phase := .init }).phase = .init ∧
    ({ live 259 0 0 [] with phase := .init }).phase = .init ∧
    memRead2 (live 260 0 0 []) 256 = some 0 ∧ memRead2 (live 260 0 0 []) 258 = some 0 ∧
    memRead2 (live 259 0 0 []) 258 = none ∧ memRead2 (live 257 0 0 []) 256 = none := by decide

theorem witness_PeekReadsTheNextBits :
    ((32 : Nat) : Int) ≤ availNum (live 260 0 32 []) ∧ availNum (live 260 0 32 []) ≤ 32 := by decide

theorem witness_PeekOfZeroBitsIsZero : State.reset.ob = 0 := by decide

/-- Exactly 16 bits left, 15 left with a word to load, 15 left without. -/
theorem witness_SkipDropsBitsAndRefills :
    WindowOk (live 262 0xC0010000 16 [1, 2]) ∧
    16 ≤ availNum (live 262 0xC0010000 16 [1, 2]) - (0 : Nat) ∧
    (availNum (live 262 0xC0010000 16 [1, 2]) - (1 : Nat) < 16 ∧
      memRead2 (live 262 0xC0010000 16 [1, 2]) 260 = some 0) ∧
    (availNum (live 261 0xC0010000 16 []) - (1 : Nat) < 16 ∧ memRead2 (live 261 0xC0010000 16 []) 260 = none) :=
  ⟨live_windowOk, by decide, by decide, by decide⟩

theorem witness_SkipKeepsTheWindowInvariant :
    answers (brInit (live 260 0 0 [])) (fun _ => true) = true ∧
    WindowOk (live 262 0xC0010000 16 [1, 2]) ∧
    answers (brSkip 15 (live 262 0xC0010000 16 [1, 2])) (fun _ => true) = true :=
  ⟨by decide, live_windowOk, by decide⟩

/-- The last byte both bounds allow, and a pair that ends there. -/
theorem witness_RegionReadsAreBoundsChecked :
    memRead1 (liveWith 260 0 0 [] [(259, 7)]) 259 = some 7 ∧
    memRead2 (liveWith 260 0 0 [] [(259, 7)]) 258 = some 0x0700 := by decide

theorem witness_CanonicalMemoriesAreEqualWhenTheyReadAlike :
    Memory.wf [(3, 1), (7, 255)] ∧ Memory.wf (Memory.write [(3, 1)] 7 255) ∧
    ∀ a, Memory.read [(3, 1), (7, 255)] a = Memory.read (Memory.write [(3, 1)] 7 255) a :=
  ⟨by decide, by decide, fun _ => rfl⟩

/-- A store that changes the region's first byte; one of an equal byte; one just past the region. -/
theorem witness_HostStoresAreRefusedInTheRunningRegion :
    MemoryInv (live 260 0 16 []) ∧ (live 260 0 16 []).busy = true ∧
    (live 260 0 16 []).offset ≤ 0 ∧ Memory.read (live 260 0 16 []).src 0 ≠ 1 ∧
    Memory.read (live 260 0 16 []).src 0 = 0 ∧
    (live 260 0 16 []).offset + min (live 260 0 16 []).inputLength.toNat
      ((live 260 0 16 []).srcLen - (live 260 0 16 []).offset) ≤ 260 ∧
    State.reset.busy = false := by
  refine ⟨by unfold MemoryInv; decide, ?_⟩; decide

theorem witness_ExpandSplitsTheTableBytes : tableReadable (live 256 0 0 []) = true := by decide

theorem witness_TableOfZeroLengthsFails :
    ({ live 256 0 0 [] with phase := .build }).phase = .build ∧
    tableReadable { live 256 0 0 [] with phase := .build } = true ∧
    ∀ k, k < 256 → regionByte { live 256 0 0 [] with phase := .build } k = 0 :=
  ⟨rfl, by decide, fun _ _ => rfl⟩

/-- A clear arena is a tree, however many slots count as taken. -/
theorem clear_treeArena (n : Fin 1025) (h : 0 < n.val) : TreeArena { State.reset with nextFree := n } := by
  refine ⟨h, fun _ => 0, rfl, fun i b c h => ?_, fun i b _ => ?_⟩
  · have : slotAt State.reset.arena i = Node.clear := slotAt_freshArena i
    rw [this] at h; simp at h
  · have : slotAt State.reset.arena i = Node.clear := slotAt_freshArena i
    rw [this]; simp

theorem witness_InsertedPathLeadsToItsLeaf :
    TreeArena { State.reset with nextFree := 1 } ∧ 1 ≤ 15 ∧ 15 ≤ 15 ∧
    answers (htInsert 7 0 15 { State.reset with nextFree := 1 }) (fun _ => true) = true :=
  ⟨clear_treeArena 1 (by decide), by decide, by decide, by decide⟩

/-- A 2-bit path takes a leaf and one new node: two free slots are enough, one is not. -/
theorem witness_InsertFailsOnlyWithoutASlot :
    (TreeArena { State.reset with nextFree := 1022 } ∧ TreeArena { State.reset with nextFree := 1023 } ∧
      1022 + 1 + newNodes State.reset.arena 0 (pathBits 0 2).dropLast ≤ 1024 ∧
      1024 < 1023 + 1 + newNodes State.reset.arena 0 (pathBits 0 2).dropLast) ∧
    ({ State.reset with nextFree := 1009 }).nextFree.val + 15 ≤ 1024 ∧
    ({ State.reset with nextFree := 1024 }).nextFree.val = 1024 ∧
    raises (htInsert 7 0 2 { State.reset with nextFree := 1023 }) .invalidHuffmanTree = true :=
  ⟨⟨clear_treeArena 1022 (by decide), clear_treeArena 1023 (by decide), by decide, by decide⟩, by decide⟩

/-- T6: {0x61: 1, 256: 1}, a complete code. -/
theorem witness_EveryUsedSymbolHasACodeOfItsLength :
    (liveWith 256 0 0 [] [(48, 0x10), (128, 1)]).arena = freshArena ∧
    answers (builder (liveWith 256 0 0 [] [(48, 0x10), (128, 1)]))
      (fun t => decide (kraftSum t.cl ≤ 2 ^ 15) && decide (codeLength t.cl 256 ≠ 0)) = true :=
  ⟨rfl, by decide +kernel⟩

/-- In BUILD, with a table of 256 equal bytes. -/
def building (b : Byte) : State :=
  { liveWith 256 0 0 [] ((List.range' 0 256).map fun k => (k, b)) with phase := .build }

theorem read_run (b : Byte) (a n k : Nat) (h : k < n) :
    Memory.read ((List.range' a n).map fun k => (k, b)) (a + k) = b := by
  induction n generalizing a k with
  | zero => omega
  | succ n ih =>
    cases k with
    | zero => rw [List.range'_succ, List.map_cons, Memory.read]; exact if_pos rfl
    | succ k =>
      rw [List.range'_succ, List.map_cons, Memory.read, if_neg (by omega)]
      rw [show a + (k + 1) = a + 1 + k by omega]
      exact ih (a + 1) k (by omega)

/-- A table of equal bytes, whose nibbles are equal, has one length. -/
theorem tableLengths_building (b : Byte) (len : Nibble) (h0 : tableNibble b 0 = len)
    (h1 : tableNibble b 1 = len) : tableLengths (building b) = Vector.replicate 512 len := by
  refine Vector.ext fun j hj => ?_
  have hr : regionByte (building b) (j / 2) = b := read_run b 0 256 (j / 2) (by omega)
  rw [tableLengths, Vector.getElem_ofFn, Vector.getElem_replicate]
  simp only [hr]
  unfold tableNibble at *
  split <;> assumption

/-- 512 symbols of length 9 fit, and 512 of length 15 do not. -/
theorem witness_BuildCompletesExactlyWhereTheTrieFits :
    ((building 0x99).phase = .build ∧ (building 0x99).arena = freshArena ∧
      tableReadable (building 0x99) = true ∧ codeLength (tableLengths (building 0x99)) 0 ≠ 0 ∧
      slotsNeeded (tableLengths (building 0x99)) ≤ 1024) ∧
    ((building 0xff).phase = .build ∧ (building 0xff).arena = freshArena ∧
      tableReadable (building 0xff) = true ∧ codeLength (tableLengths (building 0xff)) 0 ≠ 0 ∧
      1024 < slotsNeeded (tableLengths (building 0xff))) := by
  rw [tableLengths_building 0x99 9 (by decide) (by decide),
    tableLengths_building 0xff 15 (by decide) (by decide), test_slots_needed.1, test_slots_needed.2]
  exact ⟨⟨rfl, rfl, by decide, by decide, by decide⟩, ⟨rfl, rfl, by decide, by decide, by decide⟩⟩

theorem witness_StartLaunchesADecode :
    ({ State.reset with host := [.start 0 256 256] }).host = .start 0 256 256 :: [] ∧
    State.reset.busy = false ∧ 256 ≤ (256 : U32).toNat ∧ (16777216 : U32).toNat ≤ 16777216 ∧
    0 + 255 < 256 := by decide

theorem witness_StartFailsAboveTheInputCap :
    State.reset.busy = false ∧ 16777216 < (16777217 : U32).toNat ∧
    (16777216 : U32).toNat ≤ 16777216 := by decide

theorem witness_StartFailsWithoutTheTable :
    State.reset.busy = false ∧ (255 : U32).toNat ≤ 16777216 ∧ (255 : U32).toNat < 256 ∧
    (256 : U32).toNat ≤ 16777216 ∧ 255 ≤ 0 + 255 := by decide

theorem witness_StartWhileBusyIsRefused :
    ({ fetching 0x41 with host := [.start 0 256 256] }).host = .start 0 256 256 :: [] ∧
    ({ fetching 0x41 with host := [.start 0 256 256] }).status = .busy := by decide

theorem witness_PhasesMoveAsTheTableSays :
    nextIs (engineStep (fetching 0x41)) (·.phase == .token) = true ∧
    nextIs (engineStep (fetching 0x100)) (·.phase == .doneOk) = true ∧
    State.reset.busy = false ∧
    nextIs (hostMove (.start 0 256 256) State.reset) (·.phase == .build) = true ∧
    nextIs (hostMove (.store 0 1) State.reset) (fun _ => true) = true := by decide

theorem witness_OnlyEosAtTheEndSucceeds :
    (fetching 0x100).busy = true ∧
    nextIs (engineStep (fetching 0x100)) (fun t => decide (t.status = .doneOk)) = true := by decide

theorem fetching_errCodeInv (w : Nat) : ErrCodeInv (fetching w) :=
  ⟨fun _ => rfl, fun h => by cases h⟩

/-- BUSY, DONE_OK and DONE_ERR in states that keep 10 R23 and R25. -/
theorem witness_HostReadsOutOnlyOutsideBusy :
    (ErrCodeInv (fetching 0x41) ∧ (fetching 0x41).status = .busy) ∧
    (ErrCodeInv { State.reset with phase := .doneOk, out := [1] } ∧
      ({ State.reset with phase := .doneOk, out := [1] }).status = .doneOk) ∧
    (ErrCodeInv (abort .outputOverflow State.reset) ∧
      (abort .outputOverflow State.reset).status = .doneErr) := by
  refine ⟨⟨fetching_errCodeInv _, by decide⟩, ⟨⟨fun _ => rfl, fun h => by cases h⟩, by decide⟩,
    ⟨⟨fun h => absurd rfl h, fun _ => by decide⟩, by decide⟩⟩

theorem witness_PhaseStepsLeaveTheRestUnchanged :
    nextIs (engineStep { live 260 0 0 [] with phase := .init }) (·.phase == .token) = true ∧
    nextIs (engineStep { live 259 0 0 [] with phase := .init }) (·.phase == .doneErr) = true ∧
    nextIs (engineStep (fetching 0x41)) (·.phase == .token) = true := by decide

/-- A running decode keeps every invariant and steps on, so each hypothesis pair is met. -/
theorem witness_StepKeepsInvariants :
    MemoryInv (fetching 0x41) ∧ WindowInv (fetching 0x41) ∧ ErrCodeInv (fetching 0x41) ∧
    OutCapInv { fetching 0x41 with outCap := some 1 } ∧ InputInv (fetching 0x41) ∧
    ArenaInv (fetching 0x41) ∧ nextIs (step (fetching 0x41)) (·.phase == .token) = true ∧
    nextIs (step { fetching 0x41 with outCap := some 1 }) (·.out.length == 1) = true := by
  refine ⟨by unfold MemoryInv; decide, fun _ => fetching_windowOk, fetching_errCodeInv _, ?_, ?_,
    ⟨fun h => (nomatch h), fun _ => fetching_arenaOk⟩, by decide, by decide⟩
  · intro cap h; cases h; decide
  · intro _; decide

theorem witness_StepKeepsOffsetWidth :
    OffsetWidthInv { State.reset with host := [.start 0 256 0] } ∧
    nextIs (step { State.reset with host := [.start 0 256 0] }) (fun _ => true) = true := by
  refine ⟨⟨⟨Nat.two_pow_pos _, Nat.two_pow_pos _⟩, fun e h => ?_⟩, by decide⟩
  obtain rfl := List.mem_singleton.1 h
  exact ⟨Nat.two_pow_pos _, Nat.two_pow_pos _⟩

theorem witness_EngineNeverStops : ArenaInv (fetching 0x41) :=
  ⟨fun h => (nomatch h), fun _ => fetching_arenaOk⟩

theorem witness_EveryDecodeEnds :
    ({ State.reset with host := [.start 0 260 260] }).busy = false ∧
    ({ State.reset with host := [.start 0 260 260] }).host = [.start 0 260 260] := by decide

/-- The same region of zeros at offset 0 and at offset 16. -/
theorem witness_ResultDependsOnlyOnTheRegion :
    State.reset.busy = false ∧ (abort .misalignedEnd State.reset).busy = false ∧
    State.reset.outCap = (abort .misalignedEnd State.reset).outCap ∧
    ∀ i, memRead1 (startLatch 0 300 300 State.reset) i =
      memRead1 (startLatch 16 300 316 (abort .misalignedEnd State.reset)) i := by
  refine ⟨by decide, by decide, by decide, fun i => ?_⟩
  have h : readable (startLatch 0 300 300 State.reset) i =
      readable (startLatch 16 300 316 (abort .misalignedEnd State.reset)) i := by
    rw [Bool.eq_iff_iff, readable_iff, readable_iff]
    show i < 300 ∧ 0 + i < 300 ↔ i < 300 ∧ 16 + i < 316
    omega
  unfold memRead1
  rw [h]
  rfl

end Sys2Proof.Tests
end

section
/-! PROOFS. The byte source in canonical form: its cells are what it reads as. -/
namespace Sys2Proof.Machine

/-- A cell of a canonical memory is an address that reads as its byte, and not as an unlisted one. -/
theorem Memory.mem_iff_read {m : Memory} (h : Memory.wf m) (a : Nat) (b : Byte) :
    (a, b) ∈ m ↔ Memory.read m a = b ∧ b ≠ unlistedByte := by
  induction m with
  | nil => simp [eq_comm]
  | cons p m ih =>
    obtain ⟨a', b'⟩ := p
    obtain ⟨hsorted, hlisted⟩ := h
    have hb' : b' ≠ unlistedByte := hlisted (a', b') (by simp)
    have hm : Memory.wf m := ⟨hsorted.of_cons, fun q hq => hlisted q (by simp [hq])⟩
    by_cases ha : a = a'
    · subst ha
      have hnot : (a, b) ∉ m := fun hq => lt_irrefl a (Memory.tail_above hsorted _ hq)
      simp only [List.mem_cons, Prod.mk.injEq, hnot, Memory.read_list_cons, if_true, true_and, or_false]
      exact ⟨fun e => ⟨e.symm, e ▸ hb'⟩, fun e => e.1.symm⟩
    · simp [ha, ih hm]

/-- Settles O28: both lists are sorted and have the same cells, the pairs read. -/
theorem canonicalMemoriesAreEqualWhenTheyReadAlike :
    Obligations.CanonicalMemoriesAreEqualWhenTheyReadAlike := by
  intro m n hm hn hread
  have : Std.Irrefl fun p q : Host.Cell => p.1 < q.1 := ⟨fun p => lt_irrefl p.1⟩
  have : Std.Antisymm fun p q : Host.Cell => p.1 < q.1 := ⟨fun _ _ h h' => (lt_asymm h h').elim⟩
  refine hm.1.eq_of_mem_iff hn.1 fun ⟨a, b⟩ => ?_
  rw [Memory.mem_iff_read hm, Memory.mem_iff_read hn, hread]

end Sys2Proof.Machine
end

section
/-! PROOFS. What a token can answer, and what it leaves unchanged. -/
namespace Sys2Proof.Machine

/-- What the token `i` can do in `s`: fail, or complete in its own way. -/
inductive TokenRun : Instr → State → State → Prop where
  | fail {i : Instr} {s : State} (e : ErrClass) : TokenRun i s (abort e s)
  | lit {b : Byte} {s : State} (hroom : hasRoom s 1 = true) :
      TokenRun (.lit b) s { s with out := s.out ++ [b] }
  | eos {s : State} (hend : s.cursor = s.inputLength) : TokenRun .eos s (decodeSuccess s)
  | matchTok {ob lc : Nibble} {s u t : State} (hdist : matchDistance (matchFields ob lc s) = .ok u)
      (hfinish : finishMatch (shortLength u) = .ok t) : TokenRun (.matchTok ob lc) s t
  | matchLong {ob : Nibble} {s u v t : State} (hdist : matchDistance (matchFields ob 15 s) = .ok u)
      (hlength : longLength u = .ok v) (hfinish : finishMatch v = .ok t) : TokenRun (.matchLong ob) s t

theorem exec_tokenRun {i : Instr} {s t : State} (h : exec i s = .next t) : TokenRun i s t := by
  cases i with
  | lit b =>
    obtain h | ⟨e, -, rfl⟩ := conclude_eq_next.1 h
    · obtain ⟨hroom, rfl⟩ := outAppend_eq_ok.1 h
      exact .lit hroom
    · exact .fail e
  | eos =>
    obtain h | ⟨e, -, rfl⟩ := conclude_eq_next.1 h
    · split at h
      · rename_i hend; cases h; exact .eos hend
      · cases h
    · exact .fail e
  | matchTok ob lc =>
    obtain h | ⟨e, -, rfl⟩ := conclude_eq_next.1 h
    · obtain ⟨u, hdist, hfinish⟩ := except_bind_eq_ok.1 h
      exact .matchTok hdist hfinish
    · exact .fail e
  | matchLong ob =>
    obtain h | ⟨e, -, rfl⟩ := conclude_eq_next.1 h
    · obtain ⟨u, hdist, h⟩ := except_bind_eq_ok.1 h
      obtain ⟨v, hlength, hfinish⟩ := except_bind_eq_ok.1 h
      exact .matchLong hdist hlength hfinish
    · exact .fail e

/-- `t` differs from `s` only in what a match writes as it completes. -/
abbrev OnlyMatch (s t : State) : Prop :=
  t = { s with out := t.out, mask := t.mask, avail := t.avail, cursor := t.cursor, ob := t.ob,
               lc := t.lc, extra := t.extra, dist := t.dist, mlen := t.mlen, copyLeft := t.copyLeft }

/-- `t` differs from `s` only in what a token may write. -/
abbrev OnlyToken (s t : State) : Prop :=
  t = { s with phase := t.phase, errCode := t.errCode, out := t.out, mask := t.mask, avail := t.avail,
               cursor := t.cursor, ob := t.ob, lc := t.lc, extra := t.extra, dist := t.dist,
               mlen := t.mlen, copyLeft := t.copyLeft }

theorem OnlyMatch.trans {s t u : State} (h1 : OnlyMatch s t) (h2 : OnlyMatch t u) : OnlyMatch s u := by
  rw [OnlyMatch, h2, h1]

theorem OnlyMatch.onlyToken {s t : State} (h : OnlyMatch s t) : OnlyToken s t := by rw [OnlyToken, h]

theorem matchDistance_onlyMatch {ob lc : Nibble} {s u : State}
    (h : matchDistance (matchFields ob lc s) = .ok u) : OnlyMatch s u := by
  obtain ⟨x, -, rfl⟩ := matchDistance_eq_ok.1 h; rfl

theorem shortLength_onlyMatch (s : State) : OnlyMatch s (shortLength s) := rfl

theorem longLength_onlyMatch {s t : State} (h : longLength s = .ok t) : OnlyMatch s t := by
  rw [OnlyMatch, longLength_frame h]

theorem finishMatch_onlyMatch {s t : State} (h : finishMatch s = .ok t) : OnlyMatch s t := by
  rw [OnlyMatch, (finishMatch_frame h).1]

/-- The ways a token ends: it fails, LIT and a match go on with PHASE and ERR_CODE as they were, EOS
succeeds. -/
theorem TokenRun.ends {i : Instr} {s t : State} (h : TokenRun i s t) :
    (∃ e, t = abort e s) ∨ OnlyMatch s t ∨ t = decodeSuccess s := by
  cases h with
  | fail e => exact .inl ⟨e, rfl⟩
  | lit => exact .inr (.inl rfl)
  | eos => exact .inr (.inr rfl)
  | matchTok hdist hfinish =>
    exact .inr (.inl (((matchDistance_onlyMatch hdist).trans (shortLength_onlyMatch _)).trans
      (finishMatch_onlyMatch hfinish)))
  | matchLong hdist hlength hfinish =>
    exact .inr (.inl (((matchDistance_onlyMatch hdist).trans (longLength_onlyMatch hlength)).trans
      (finishMatch_onlyMatch hfinish)))

theorem TokenRun.onlyToken {i : Instr} {s t : State} (h : TokenRun i s t) : OnlyToken s t := by
  obtain ⟨e, rfl⟩ | h | rfl := h.ends
  · rfl
  · exact h.onlyToken
  · rfl

/-- LIT and EOS write only PHASE, ERR_CODE and OUT. -/
theorem TokenRun.frame_of_no_operands {i : Instr} {s t : State} (h : TokenRun i s t)
    (hi : i = .eos ∨ ∃ b, i = .lit b) :
    t = { s with phase := t.phase, errCode := t.errCode, out := t.out } := by
  cases h with
  | fail e => rfl
  | lit => rfl
  | eos => rfl
  | matchTok => simp at hi
  | matchLong => simp at hi

/-- Settles O17: by the frame of each way a token can run. -/
theorem tokensLeaveTheRestUnchanged : Obligations.TokensLeaveTheRestUnchanged := by
  intro i s t h
  have hrun := exec_tokenRun h
  refine ⟨hrun.onlyToken, fun a => ?_, hrun.frame_of_no_operands⟩
  rw [hrun.onlyToken]

end Sys2Proof.Machine
end

section
/-! PROOFS. The step, said once: what the engine and the host can do in it. -/
namespace Sys2Proof.Machine

/-- What the engine can do in one step (44 R203). -/
inductive EngineMove : State → State → Prop where
  /-- Outside BUSY it waits for START. -/
  | wait {s : State} (hidle : s.busy = false) : EngineMove s s
  /-- A phase, or the walk to a token, fails. -/
  | fail {s : State} (e : ErrClass) (hbusy : s.busy = true) : EngineMove s (abort e s)
  | build {s u : State} (hphase : s.phase = .build) (hbuilt : builder s = .ok u) :
      EngineMove s { u with phase := .init }
  | init {s u : State} (hphase : s.phase = .init) (hloaded : brInit s = .ok u) :
      EngineMove s { u with phase := .token }
  | token {i : Instr} {s u t : State} (hphase : s.phase = .token) (hwalk : tdDecode s = .ok u)
      (hrun : TokenRun i u t) : EngineMove s t

theorem tokenStep_move {s t : State} (hphase : s.phase = .token) (h : tokenStep s = .next t) :
    EngineMove s t := by
  obtain ⟨e, -, h'⟩ | ⟨u, hwalk, ⟨-, h'⟩ | ⟨i, -, h'⟩⟩ := tokenStep_cases s
  · rw [h'] at h; cases h; exact .fail e (busy_iff.2 (.inr (.inr hphase)))
  · rw [h'] at h; cases h
  · exact .token hphase hwalk (exec_tokenRun (h' ▸ h))

theorem engineStep_move {s t : State} (h : engineStep s = .next t) : EngineMove s t := by
  cases hphase : s.phase <;> simp only [engineStep, hphase] at h
  case build =>
    obtain ⟨e, -, h'⟩ | ⟨u, hbuilt, h'⟩ := buildStep_cases s <;> rw [h'] at h <;> cases h
    · exact .fail e (busy_iff.2 (.inl hphase))
    · exact .build hphase hbuilt
  case init =>
    obtain ⟨e, -, h'⟩ | ⟨u, hloaded, h'⟩ := initStep_cases s <;> rw [h'] at h <;> cases h
    · exact .fail e (busy_iff.2 (.inr (.inl hphase)))
    · exact .init hphase hloaded
  case token => exact tokenStep_move hphase h
  all_goals
    cases h
    exact .wait (by simp [State.busy, State.status, hphase, Phase.status])

/-- What one step can do, with `planned` what the host had planned before it. -/
inductive Move (planned : List HostEvent) : State → State → Prop where
  | engine {s t : State} (hmove : EngineMove s t) : Move planned s t
  | launch {s : State} {offset : Nat} {len : U32} {srcLen : Nat}
      (hplanned : .start offset len srcLen ∈ planned) (hidle : s.busy = false)
      (hchecks : startChecks (startLatch offset len srcLen s) = .ok (startLatch offset len srcLen s)) :
      Move planned s (startLatch offset len srcLen s)
  /-- START fails one of its checks. -/
  | launchFail {s : State} {offset : Nat} {len : U32} {srcLen : Nat} (e : ErrClass)
      (hplanned : .start offset len srcLen ∈ planned) (hidle : s.busy = false)
      (hchecks : startChecks (startLatch offset len srcLen s) = .error e) :
      Move planned s (abort e (startLatch offset len srcLen s))
  | store {s : State} (addr : Nat) (b : Byte) :
      Move planned s { s with src := Memory.write s.src addr b }

theorem hostMove_move {planned : List HostEvent} {e : HostEvent} {s t : State} (he : e ∈ planned)
    (h : hostMove e s = .next t) : Move planned s t := by
  cases e with
  | start offset len srcLen =>
    obtain ⟨-, h'⟩ | ⟨hidle, ⟨e, hchecks, h'⟩ | ⟨hchecks, h'⟩⟩ := hostStart_cases offset len srcLen s <;>
      rw [hostMove, h'] at h <;> cases h
    · exact .launchFail e he hidle hchecks
    · exact .launch he hidle hchecks
  | store addr b =>
    obtain h' | h' := hostStore_cases addr b s <;> rw [hostMove, h'] at h <;> cases h
    exact .store addr b
  | tick => exact .engine (engineStep_move h)

/-- A step takes the host's next event off its plans, if there is one, and makes a move. -/
theorem step_move {s t : State} (h : step s = .next t) :
    ∃ rest, rest <:+ s.host ∧ Move s.host { s with host := rest } t := by
  cases hhost : s.host with
  | nil =>
    rw [step_of_host_nil hhost] at h
    exact ⟨[], List.suffix_refl [], .engine (engineStep_move (by rw [← hhost]; exact h))⟩
  | cons e rest =>
    rw [step_of_host_cons hhost] at h
    exact ⟨rest, List.suffix_cons e rest, hostMove_move (by simp) h⟩

/-- The fields that belong to the host: the launch arguments, the byte source, OUT_CAP and the plans. -/
structure SameHostSide (s t : State) : Prop where
  offset : t.offset = s.offset
  inputLength : t.inputLength = s.inputLength
  srcLen : t.srcLen = s.srcLen
  src : t.src = s.src
  outCap : t.outCap = s.outCap
  host : t.host = s.host

theorem SameHostSide.trans {s t u : State} (h1 : SameHostSide s t) (h2 : SameHostSide t u) :
    SameHostSide s u :=
  ⟨h2.offset.trans h1.offset, h2.inputLength.trans h1.inputLength, h2.srcLen.trans h1.srcLen,
   h2.src.trans h1.src, h2.outCap.trans h1.outCap, h2.host.trans h1.host⟩

theorem TokenRun.sameHostSide {i : Instr} {s t : State} (h : TokenRun i s t) : SameHostSide s t := by
  rw [h.onlyToken]; exact ⟨rfl, rfl, rfl, rfl, rfl, rfl⟩

theorem tdDecode_sameHostSide {s t : State} (h : tdDecode s = .ok t) : SameHostSide s t := by
  rw [(tdDecode_ok h).1]; exact ⟨rfl, rfl, rfl, rfl, rfl, rfl⟩

/-- No move of the engine changes a field of the host. -/
theorem EngineMove.sameHostSide {s t : State} (h : EngineMove s t) : SameHostSide s t := by
  cases h with
  | wait => exact ⟨rfl, rfl, rfl, rfl, rfl, rfl⟩
  | fail e => exact ⟨rfl, rfl, rfl, rfl, rfl, rfl⟩
  | build _ hbuilt => rw [builder_frame hbuilt]; exact ⟨rfl, rfl, rfl, rfl, rfl, rfl⟩
  | init _ hloaded =>
    obtain ⟨w0, w1, -, -, rfl⟩ := brInit_eq_ok.1 hloaded
    exact ⟨rfl, rfl, rfl, rfl, rfl, rfl⟩
  | token _ hwalk hrun => exact (tdDecode_sameHostSide hwalk).trans hrun.sameHostSide

end Sys2Proof.Machine
end

section
/-! PROOFS. The invariants of the fields the host sees: the byte source, ERR_CODE and OUT, OUT_CAP, the
launch arguments. -/
namespace Sys2Proof.Machine

/-! ### STATUS and the host's reads -/

/-- Settles O44: each entry of the table is a case of the definition. -/
theorem statusIsAFunctionOfPhase : Obligations.StatusIsAFunctionOfPhase := rfl

theorem hostReadOut_of_busy {s : State} (h : s.status = .busy) : hostReadOut s = none := by
  simp [hostReadOut, h]

theorem hostReadOut_of_not_busy {s : State} (h : s.status ≠ .busy) : hostReadOut s = some s.out := by
  cases hs : s.status <;> simp_all [hostReadOut]

theorem status_eq_doneErr_iff {s : State} : s.status = .doneErr ↔ s.phase = .doneErr := by
  cases h : s.phase <;> simp [State.status, h, Phase.status]

/-- Settles O46: the read is by STATUS, and in DONE_ERR the invariant gives an empty OUT. -/
theorem hostReadsOutOnlyOutsideBusy : Obligations.HostReadsOutOnlyOutsideBusy := by
  rintro s ⟨-, herr⟩
  refine ⟨fun h => ?_, fun h => ?_, fun h => ?_⟩
  · simp [hostReadOutLen, hostReadOut_of_busy h]
  · simp [hostReadOutLen, hostReadOut_of_not_busy (s := s) (by simp [h])]
  · obtain ⟨-, -, hout⟩ := herr (status_eq_doneErr_iff.1 h)
    simp [hostReadOutLen, hostReadOut_of_not_busy (s := s) (by simp [h]), hout]

/-! ### The byte source -/

/-- Settles O48: only a host's store writes the byte source, and it keeps the canonical form. -/
theorem stepKeepsMemoryCanonical : Obligations.StepKeepsMemoryCanonical := by
  intro s t hs h
  obtain ⟨rest, -, hmove⟩ := step_move h
  cases hmove with
  | engine hmove => rw [MemoryInv, hmove.sameHostSide.src]; exact hs
  | launch => exact hs
  | launchFail => exact hs
  | store addr b => exact Memory.wf_write addr b hs

/-! ### ERR_CODE -/

theorem ErrClass.code_range (e : ErrClass) : 1 ≤ e.code.toNat ∧ e.code.toNat ≤ 9 := by
  cases e <;> decide

theorem errCodeInv_abort (e : ErrClass) (s : State) : ErrCodeInv (abort e s) :=
  ⟨fun h => absurd rfl h, fun _ => ⟨e.code_range.1, e.code_range.2, rfl⟩⟩

theorem errCodeInv_of_zero {s : State} (hphase : s.phase ≠ .doneErr) (herr : s.errCode = 0) :
    ErrCodeInv s :=
  ⟨fun _ => herr, fun h => absurd h hphase⟩

/-- A token of a running decode with ERR_CODE 0 ends with ERR_CODE and OUT as its phase asks. -/
theorem TokenRun.errCodeInv {i : Instr} {s t : State} (h : TokenRun i s t) (hphase : s.phase = .token)
    (herr : s.errCode = 0) : ErrCodeInv t := by
  obtain ⟨e, rfl⟩ | h | rfl := h.ends
  · exact errCodeInv_abort e s
  · rw [h]; exact errCodeInv_of_zero (by simp [hphase]) herr
  · exact errCodeInv_of_zero (by simp) herr

theorem EngineMove.errCodeInv {s t : State} (h : EngineMove s t) (hs : ErrCodeInv s) : ErrCodeInv t := by
  have hzero := hs.1
  cases h with
  | wait => exact hs
  | fail e => exact errCodeInv_abort e s
  | build hphase hbuilt =>
    rw [builder_frame hbuilt]
    exact errCodeInv_of_zero (by simp) (hzero (by simp [hphase]))
  | init hphase hloaded =>
    obtain ⟨w0, w1, -, -, rfl⟩ := brInit_eq_ok.1 hloaded
    exact errCodeInv_of_zero (by simp) (hzero (by simp [hphase]))
  | token hphase hwalk hrun =>
    have hwalked := (tdDecode_ok hwalk).1
    exact hrun.errCodeInv (by rw [hwalked]; exact hphase) (by rw [hwalked]; exact hzero (by simp [hphase]))

/-- Settles O50: a failure gives its class's code and empties OUT, START clears ERR_CODE, and nothing
else writes it. -/
theorem stepKeepsErrCodeConsistent : Obligations.StepKeepsErrCodeConsistent := by
  intro s t hs h
  obtain ⟨rest, -, hmove⟩ := step_move h
  cases hmove with
  | engine hmove => exact hmove.errCodeInv hs
  | launch => exact errCodeInv_of_zero (by simp) rfl
  | launchFail e => exact errCodeInv_abort e _
  | store => exact hs

/-! ### OUT_CAP -/

theorem outCapInv_of_nil {s : State} (h : s.out = []) : OutCapInv s := by simp [OutCapInv, h]

theorem OutCapInv.congr {s t : State} (h : OutCapInv s) (hout : t.out = s.out)
    (hcap : t.outCap = s.outCap) : OutCapInv t := by rwa [OutCapInv, hout, hcap]

theorem outCapInv_append {b : Byte} {s : State} (hroom : hasRoom s 1 = true) :
    OutCapInv { s with out := s.out ++ [b] } := by
  intro cap hcap
  simpa using hasRoom_iff.1 hroom cap hcap

theorem copyLoop_outCapInv {n d : Nat} {s t : State} (h : copyLoop n d s = .ok t) (hs : OutCapInv s) :
    OutCapInv t := by
  induction n generalizing s with
  | zero => cases h; exact hs
  | succ n ih =>
    rw [copyLoop_succ, except_bind_eq_ok] at h
    obtain ⟨u, hbyte, h⟩ := h
    obtain ⟨b, -, hroom, rfl⟩ := copyByte_eq_ok.1 hbyte
    exact ih h (outCapInv_append hroom)

theorem finishMatch_outCapInv {s t : State} (h : finishMatch s = .ok t) (hs : OutCapInv s) :
    OutCapInv t := by
  obtain ⟨u, hskip, h⟩ := except_bind_eq_ok.1 h
  refine copyLoop_outCapInv h (hs.congr ?_ ?_) <;> rw [brSkip_frame hskip]

theorem TokenRun.outCapInv {i : Instr} {s t : State} (h : TokenRun i s t) (hs : OutCapInv s) :
    OutCapInv t := by
  cases h with
  | fail e => exact outCapInv_of_nil rfl
  | lit hroom => exact outCapInv_append hroom
  | eos => exact hs
  | matchTok hdist hfinish =>
    obtain ⟨x, -, rfl⟩ := matchDistance_eq_ok.1 hdist
    exact finishMatch_outCapInv hfinish hs
  | matchLong hdist hlength hfinish =>
    obtain ⟨x, -, rfl⟩ := matchDistance_eq_ok.1 hdist
    refine finishMatch_outCapInv hfinish (hs.congr ?_ ?_) <;> rw [longLength_frame hlength] <;> rfl

theorem EngineMove.outCapInv {s t : State} (h : EngineMove s t) (hs : OutCapInv s) : OutCapInv t := by
  cases h with
  | wait => exact hs
  | fail e => exact outCapInv_of_nil rfl
  | build _ hbuilt => rw [builder_frame hbuilt]; exact hs
  | init _ hloaded => obtain ⟨w0, w1, -, -, rfl⟩ := brInit_eq_ok.1 hloaded; exact hs
  | token _ hwalk hrun =>
    have hwalked := (tdDecode_ok hwalk).1
    exact hrun.outCapInv (by rw [hwalked]; exact hs)

/-- Settles O51: every byte is appended with room for it, START and a failure empty OUT, and OUT_CAP is
the host's. -/
theorem stepKeepsOutputWithinItsCap : Obligations.StepKeepsOutputWithinItsCap := by
  intro s t hs h
  obtain ⟨rest, -, hmove⟩ := step_move h
  cases hmove with
  | engine hmove => exact ⟨hmove.outCapInv hs, hmove.sameHostSide.outCap⟩
  | launch => exact ⟨outCapInv_of_nil rfl, rfl⟩
  | launchFail => exact ⟨outCapInv_of_nil rfl, rfl⟩
  | store => exact ⟨hs, rfl⟩

/-! ### OFFSET_WIDTH -/

/-- Settles O54: OFFSET and SRC_LEN are written by START alone, with arguments the host had planned. -/
theorem stepKeepsOffsetWidth : Obligations.StepKeepsOffsetWidth := by
  rintro s t ⟨hfits, hplans⟩ h
  obtain ⟨rest, hrest, hmove⟩ := step_move h
  have hrestFits : ∀ e ∈ rest, e.FitsOffsetWidth := fun e he => hplans e (hrest.subset he)
  cases hmove with
  | engine hmove =>
    have hsame := hmove.sameHostSide
    rw [OffsetWidthInv, State.FitsOffsetWidth, hsame.offset, hsame.srcLen, hsame.host]
    exact ⟨hfits, hrestFits⟩
  | launch hplanned => exact ⟨hplans _ hplanned, hrestFits⟩
  | launchFail e hplanned => exact ⟨hplans _ hplanned, hrestFits⟩
  | store => exact ⟨hfits, hrestFits⟩

end Sys2Proof.Machine
end

section
/-! PROOFS. The window invariant of a running decode (10 R28, 40 R116). -/
namespace Sys2Proof.Machine

/-- CURSOR may move on inside the region. -/
theorem WindowOk.advance {s t : State} (h : WindowOk s) (n : Nat) (hmask : t.mask = s.mask)
    (havail : t.avail = s.avail) (hcursor : t.cursor = s.cursor + BitVec.ofNat 32 n)
    (hlength : t.inputLength = s.inputLength) (hn : s.cursor.toNat + n ≤ s.inputLength.toNat) :
    WindowOk t := by
  have hnum : availNum t = availNum s := by rw [availNum, havail, availNum]
  have hcursorNat : t.cursor.toNat = s.cursor.toNat + n := by
    have := s.inputLength.isLt
    rw [hcursor, BitVec.toNat_add, BitVec.toNat_ofNat]; omega
  have hlow := h.cursorLow
  exact ⟨hnum ▸ h.availLow, hnum ▸ h.availHigh, by rw [hnum, hmask]; exact h.zeroBelow,
    by omega, by rw [hlength]; omega⟩

/-- The window invariant looks at the window and INPUT_LENGTH alone. -/
theorem WindowOk.congr {s t : State} (h : WindowOk s) (hmask : t.mask = s.mask)
    (havail : t.avail = s.avail) (hcursor : t.cursor = s.cursor)
    (hlength : t.inputLength = s.inputLength) : WindowOk t :=
  h.advance 0 hmask havail (by rw [hcursor, BitVec.add_zero]) hlength h.cursorHigh

/-! ### Loading the window -/

theorem brInit_windowOk {s t : State} (h : brInit s = .ok t) : WindowOk t := by
  obtain ⟨w0, w1, -, hread, rfl⟩ := brInit_eq_ok.1 h
  have havail : (32 : U32).toInt = 32 := by decide
  refine ⟨?_, ?_, fun i hi => ?_, ?_, memRead2_in_region hread⟩
  · rw [availNum, havail]; decide
  · rw [availNum, havail]
  · rw [availNum, havail] at hi; omega
  · show 260 ≤ (260 : U32).toNat; decide

/-- Below its valid bits a shifted mask is zero, as the mask was. -/
theorem shiftWindow_zeroBelow {n : Nat} {s : State} (h : WindowOk s) {i : Nat}
    (hi : i < (32 - (availNum s - n)).toNat) : (s.mask <<< n).getLsbD i = false := by
  rw [BitVec.getLsbD_shiftLeft]
  by_cases hin : i < n
  · simp [hin]
  · rw [h.zeroBelow (i - n) (by omega), Bool.and_false]

/-- A refill puts its word just below the valid bits, so the bits below it stay zero. -/
theorem brRefill_shiftWindow_windowOk {n : Nat} {s t : State} (h : WindowOk s) (hn : n ≤ 15)
    (hlow : availNum s - n < 16) (ht : brRefill (shiftWindow n s) = .ok t) : WindowOk t := by
  obtain ⟨w, hread, rfl⟩ := brRefill_eq_ok.1 ht
  have hread : s.cursor.toNat + 2 ≤ s.inputLength.toNat := memRead2_in_region hread
  have havailLow := h.availLow
  rw [availNum_shiftWindow (by omega)]
  have havail : (BitVec.ofInt 32 (availNum s - n + 16)).toInt = availNum s - n + 16 :=
    toInt_ofInt_32 (by omega) (by omega)
  have hcursor : (s.cursor + 2).toNat = s.cursor.toNat + 2 := by
    have := s.inputLength.isLt
    rw [BitVec.toNat_add]; simp; omega
  have hcursorLow := h.cursorLow
  refine ⟨?_, ?_, fun i hi => ?_, ?_, ?_⟩
  · rw [availNum, havail]; omega
  · rw [availNum, havail]; omega
  · rw [availNum, havail] at hi
    have hshifted : (s.mask <<< n).getLsbD i = false := shiftWindow_zeroBelow h (by omega)
    have hword : (w.setWidth 32 <<< (16 - (availNum s - n)).toNat).getLsbD i = false := by
      rw [BitVec.getLsbD_shiftLeft, decide_eq_true (show i < (16 - (availNum s - n)).toNat by omega)]
      simp
    rw [shiftWindow_mask, BitVec.getLsbD_or, hshifted, hword]; rfl
  · show 260 ≤ (s.cursor + 2).toNat; omega
  · show (s.cursor + 2).toNat ≤ s.inputLength.toNat; omega

theorem brSkip_windowOk {n : Nat} {s t : State} (h : WindowOk s) (hn : n ≤ 15)
    (ht : brSkip n s = .ok t) : WindowOk t := by
  obtain ⟨hle, ⟨hfull, rfl⟩ | ⟨hlow, ht⟩⟩ := brSkip_eq_ok.1 ht
  · have havail := availNum_shiftWindow hle
    have havailHigh := h.availHigh
    refine ⟨by omega, by omega, fun i hi => ?_, h.cursorLow, h.cursorHigh⟩
    rw [havail] at hi
    exact shiftWindow_zeroBelow h hi
  · exact brRefill_shiftWindow_windowOk h hn hlow ht

/-! ### The walk and the tokens -/

theorem tdStep_windowOk {s t : State} (h : WindowOk s) (ht : tdStep s = .ok t) : WindowOk t := by
  obtain ⟨b, u, c, -, hskip, -, rfl⟩ := tdStep_eq_ok.1 ht
  exact (brSkip_windowOk h (by decide) hskip).congr rfl rfl rfl rfl

theorem tdWalk_windowOk {n : Nat} {s t : State} (h : WindowOk s) (ht : tdWalk n s = .ok t) :
    WindowOk t := by
  induction n generalizing s with
  | zero => cases ht
  | succ n ih =>
    cases hs : tdStep s with
    | error e => rw [tdWalk_fail hs] at ht; cases ht
    | ok u =>
      have hu := tdStep_windowOk h hs
      cases hl : u.leafFlag u.node with
      | true => rw [tdWalk_leaf hs hl] at ht; cases ht; exact hu.congr rfl rfl rfl rfl
      | false => rw [tdWalk_inner hs hl] at ht; exact ih hu ht

theorem tdDecode_windowOk {s t : State} (h : WindowOk s) (ht : tdDecode s = .ok t) : WindowOk t :=
  tdWalk_windowOk (h.congr (t := { s with node := 0 }) rfl rfl rfl rfl) ht

theorem matchDistance_windowOk {ob lc : Nibble} {s t : State} (h : WindowOk s)
    (ht : matchDistance (matchFields ob lc s) = .ok t) : WindowOk t := by
  obtain ⟨x, -, rfl⟩ := matchDistance_eq_ok.1 ht
  exact h.congr rfl rfl rfl rfl

/-- The extension bytes lie in the region, and CURSOR moves past them. -/
theorem longLength_windowOk {s t : State} (h : WindowOk s) (ht : longLength s = .ok t) :
    WindowOk t := by
  obtain ⟨u, hbyte, ht⟩ := except_bind_eq_ok.1 ht
  obtain ⟨e1, hread1, rfl⟩ := extByte_eq_ok.1 hbyte
  have hin := (readable_iff.1 (memRead1_eq_some.1 hread1).1).1
  have hu := h.advance (t := { s with mlen := e1.setWidth 32 + 15, cursor := s.cursor + 1 }) 1
    rfl rfl rfl rfl hin
  split at ht
  · obtain ⟨e2, hread2, rfl⟩ := extWord_eq_ok.1 ht
    exact hu.advance 2 rfl rfl rfl rfl (memRead2_in_region hread2)
  · cases ht; exact hu

theorem finishMatch_windowOk {s t : State} (h : WindowOk s) (ht : finishMatch s = .ok t) :
    WindowOk t := by
  obtain ⟨u, hskip, hcopy⟩ := except_bind_eq_ok.1 ht
  have hob : s.ob.toNat ≤ 15 := Nat.le_of_lt_succ s.ob.isLt
  rw [(copyLoop_frame hcopy).1]
  exact (brSkip_windowOk h hob hskip).congr rfl rfl rfl rfl

/-- A token keeps the window invariant, whatever it does. -/
theorem TokenRun.windowOk {i : Instr} {s t : State} (h : TokenRun i s t) (hs : WindowOk s) :
    WindowOk t := by
  cases h with
  | fail => exact hs.congr rfl rfl rfl rfl
  | lit => exact hs.congr rfl rfl rfl rfl
  | eos => exact hs.congr rfl rfl rfl rfl
  | @matchTok _ _ _ u _ hdist hfinish =>
    have hu := matchDistance_windowOk hs hdist
    exact finishMatch_windowOk (hu.congr (t := shortLength u) rfl rfl rfl rfl) hfinish
  | matchLong hdist hlength hfinish =>
    exact finishMatch_windowOk (longLength_windowOk (matchDistance_windowOk hs hdist) hlength) hfinish

theorem EngineMove.windowInv {s t : State} (h : EngineMove s t) (hs : WindowInv s) : WindowInv t := by
  cases h with
  | wait => exact hs
  | fail => exact fun h => by cases h
  | build => exact fun h => by cases h
  | init _ hloaded => exact fun _ => (brInit_windowOk hloaded).congr rfl rfl rfl rfl
  | token hphase hwalk hrun => exact fun _ => hrun.windowOk (tdDecode_windowOk (hs hphase) hwalk)

/-- Settles O49: INIT loads a full window, and every skip and extension read of a TOKEN step keeps it. -/
theorem stepKeepsTheWindowInvariant : Obligations.StepKeepsTheWindowInvariant := by
  intro s t hs h
  obtain ⟨rest, -, hmove⟩ := step_move h
  have hpopped : WindowInv { s with host := rest } := fun hphase => (hs hphase).congr rfl rfl rfl rfl
  cases hmove with
  | engine hmove => exact hmove.windowInv hpopped
  | launch => exact fun h => by cases h
  | launchFail => exact fun h => by cases h
  | store => exact fun hphase => (hs hphase).congr rfl rfl rfl rfl

end Sys2Proof.Machine
end

section
/-! PROOFS. The arena under construction as a tree with a depth for each slot (41 R142). -/
namespace Sys2Proof.Machine

/-! ### Reading a slot after one update of the arena -/

theorem child_setSlot_setChild (a : Vector Node 1024) (i c j : Slot) (b b' : Bool) :
    (slotAt (setSlot a i ((slotAt a i).setChild b c)) j).child b' =
      if j = i ∧ b' = b then some c else (slotAt a j).child b' := by
  by_cases hj : j = i
  · subst hj
    rw [slotAt_setSlot_self]
    by_cases hb : b' = b
    · subst hb; simp
    · rw [Node.child_setChild_other _ _ hb, if_neg fun h => hb h.2]
  · rw [slotAt_setSlot_other a _ hj, if_neg fun h => hj h.1]

theorem leaf_setSlot_setChild (a : Vector Node 1024) (i c j : Slot) (b : Bool) :
    (slotAt (setSlot a i ((slotAt a i).setChild b c)) j).leaf = (slotAt a j).leaf := by
  rw [slotAt_setSlot]; split
  · rename_i hj; rw [← hj, Node.setChild_leaf]
  · rfl

theorem sym_setSlot_setChild (a : Vector Node 1024) (i c j : Slot) (b : Bool) :
    (slotAt (setSlot a i ((slotAt a i).setChild b c)) j).sym = (slotAt a j).sym := by
  rw [slotAt_setSlot]; split
  · rename_i hj; rw [← hj, Node.setChild_sym]
  · rfl

/-- Writing a leaf flag or a symbol moves no child. -/
theorem child_setSlot_label (a : Vector Node 1024) (i j : Slot) (w : U16) (v b : Bool) :
    (slotAt (setSlot a i { slotAt a i with sym := w, leaf := v }) j).child b = (slotAt a j).child b := by
  rw [slotAt_setSlot]; split
  · rename_i hj; subst hj; rfl
  · rfl

/-! ### Trees with depths -/

/-- `depth` makes the arena a tree over its first `n` slots: what `TreeArena` asks of the depths. -/
structure Layered (depth : Slot → Nat) (a : Vector Node 1024) (n : Nat) : Prop where
  taken : 0 < n
  rootDepth : depth 0 = 0
  child : ∀ (i : Slot) (b : Bool) (c : Slot), (slotAt a i).child b = some c →
    depth c = depth i + 1 ∧ c ≠ 0 ∧ c.val < n
  free : ∀ (i : Slot) (b : Bool), n ≤ i.val → (slotAt a i).child b = none

theorem treeArena_iff {s : State} :
    TreeArena s ↔ ∃ depth, Layered depth s.arena s.nextFree.val :=
  ⟨fun ⟨htaken, depth, hroot, hchild, hfree⟩ => ⟨depth, htaken, hroot, hchild, hfree⟩,
   fun ⟨depth, h⟩ => ⟨h.taken, depth, h.rootDepth, h.child, h.free⟩⟩

variable {depth : Slot → Nat} {a : Vector Node 1024} {n : Nat}

theorem layered_fresh : Layered (fun _ => 0) freshArena 1 where
  taken := Nat.one_pos
  rootDepth := rfl
  child i b c h := by simp at h
  free i b _ := by simp

/-- A slot with a child is taken. -/
theorem Layered.parent_taken (h : Layered depth a n) {i c : Slot} {b : Bool}
    (hc : (slotAt a i).child b = some c) : i.val < n := by
  by_contra hi
  rw [h.free i b (by omega)] at hc; cases hc

/-- A slot just taken may be given any depth: it has no parent and no child. -/
theorem Layered.take (h : Layered depth a n) {c : Slot} (hc : c.val = n) (d : Nat) :
    Layered (Function.update depth c d) a (n + 1) where
  taken := Nat.succ_pos n
  rootDepth := by
    have hne : (0 : Slot) ≠ c := fun e => h.taken.ne (by rw [← hc, ← e]; rfl)
    rw [Function.update_of_ne hne, h.rootDepth]
  child i b k hk := by
    obtain ⟨hdepth, hk0, hkn⟩ := h.child i b k hk
    have hi := h.parent_taken hk
    have hkc : k ≠ c := Fin.ne_of_val_ne (by omega)
    have hic : i ≠ c := Fin.ne_of_val_ne (by omega)
    rw [Function.update_of_ne hkc, Function.update_of_ne hic]
    exact ⟨hdepth, hk0, by omega⟩
  free i b hi := h.free i b (by omega)

/-- A taken slot may become a child of a taken slot one level above it. -/
theorem Layered.link (h : Layered depth a n) {i c : Slot} (b : Bool) (hi : i.val < n) (hc : c.val < n)
    (hc0 : c ≠ 0) (hdepth : depth c = depth i + 1) :
    Layered depth (setSlot a i ((slotAt a i).setChild b c)) n where
  taken := h.taken
  rootDepth := h.rootDepth
  child j b' k hk := by
    rw [child_setSlot_setChild] at hk
    split at hk
    · rename_i hj; cases hk; exact ⟨hj.1 ▸ hdepth, hc0, hc⟩
    · exact h.child j b' k hk
  free j b' hj := by
    rw [child_setSlot_setChild, if_neg fun e => by rw [e.1] at hj; omega]
    exact h.free j b' hj

/-- A slot's labels are no part of the tree. -/
theorem Layered.label (h : Layered depth a n) (i : Slot) (w : U16) (v : Bool) :
    Layered depth (setSlot a i { slotAt a i with sym := w, leaf := v }) n where
  taken := h.taken
  rootDepth := h.rootDepth
  child j b k hk := h.child j b k (by rwa [child_setSlot_label] at hk)
  free j b hj := by rw [child_setSlot_label]; exact h.free j b hj

end Sys2Proof.Machine
end

section
/-! PROOFS. The builder keeps the trie within depth 15, over-subscribed tables included (41 R142). -/
namespace Sys2Proof.Machine

/-- A tree under construction that the decoder can walk: a child at depth 15 is a leaf, the root is none,
and symbols are 0..511. -/
structure BoundedTrie (depth : Slot → Nat) (a : Vector Node 1024) (n : Nat) : Prop
    extends Layered depth a n where
  deep : ∀ (i : Slot) (b : Bool) (c : Slot), (slotAt a i).child b = some c → depth c = 15 →
    (slotAt a c).leaf = true
  rootInner : (slotAt a 0).leaf = false
  symbols : ∀ i : Slot, (slotAt a i).sym.toNat < 512

variable {depth : Slot → Nat} {a : Vector Node 1024} {n : Nat}

/-- A path from a slot that reaches depth 15 meets a missing child or a leaf on the way. -/
theorem BoundedTrie.stops (h : BoundedTrie depth a n) {i : Slot} {path : List Bool} (hne : path ≠ [])
    (hlength : depth i + path.length = 15) : stops a i path = true := by
  induction path generalizing i with
  | nil => exact absurd rfl hne
  | cons b path ih =>
    cases hc : (slotAt a i).child b with
    | none => simp [Machine.stops, hc]
    | some c =>
      have hdepth := (h.child i b c hc).1
      rw [List.length_cons] at hlength
      by_cases hend : path = []
      · subst hend
        have hleaf := h.deep i b c hc (by rw [List.length_nil] at hlength; omega)
        simp [Machine.stops, hc, hleaf]
      · simp [Machine.stops, hc, ih hend (by omega : depth c + path.length = 15)]

theorem BoundedTrie.arenaOk (h : BoundedTrie depth a n) : ArenaOk a where
  symbols := h.symbols
  root := h.rootInner
  depth path hpath := by
    refine h.stops (fun e => ?_) (by rw [h.rootDepth, hpath])
    rw [e] at hpath; cases hpath

theorem boundedTrie_fresh : BoundedTrie (fun _ => 0) freshArena 1 where
  toLayered := layered_fresh
  deep i b c h := by simp at h
  rootInner := by rw [slotAt_freshArena]; rfl
  symbols i := by rw [slotAt_freshArena]; decide

/-! ### The builder's updates of the arena -/

theorem BoundedTrie.take (h : BoundedTrie depth a n) {c : Slot} (hc : c.val = n) (d : Nat) :
    BoundedTrie (Function.update depth c d) a (n + 1) where
  toLayered := h.toLayered.take hc d
  deep i b k hk hdepth := by
    obtain ⟨-, -, hkn⟩ := h.child i b k hk
    have hkc : k ≠ c := Fin.ne_of_val_ne (by omega)
    rw [Function.update_of_ne hkc] at hdepth
    exact h.deep i b k hk hdepth
  rootInner := h.rootInner
  symbols := h.symbols

theorem BoundedTrie.link (h : BoundedTrie depth a n) {i c : Slot} (b : Bool) (hi : i.val < n)
    (hc : c.val < n) (hc0 : c ≠ 0) (hdepth : depth c = depth i + 1)
    (hleaf : depth c = 15 → (slotAt a c).leaf = true) :
    BoundedTrie depth (setSlot a i ((slotAt a i).setChild b c)) n where
  toLayered := h.toLayered.link b hi hc hc0 hdepth
  deep j b' k hk hk15 := by
    rw [leaf_setSlot_setChild]
    rw [child_setSlot_setChild] at hk
    split at hk
    · cases hk; exact hleaf hk15
    · exact h.deep j b' k hk hk15
  rootInner := by rw [leaf_setSlot_setChild]; exact h.rootInner
  symbols j := by rw [sym_setSlot_setChild]; exact h.symbols j

/-- Any slot may be labelled again, but for a leaf at the root and for a leaf at depth 15 made none. -/
theorem BoundedTrie.label (h : BoundedTrie depth a n) {i : Slot} {w : U16} {v : Bool}
    (hw : w.toNat < 512) (hroot : i = 0 → v = false)
    (hleaf : depth i = 15 → (slotAt a i).leaf = true → v = true) :
    BoundedTrie depth (setSlot a i { slotAt a i with sym := w, leaf := v }) n where
  toLayered := h.toLayered.label i w v
  deep j b k hk hk15 := by
    rw [child_setSlot_label] at hk
    rw [slotAt_setSlot]; split
    · rename_i hik; subst hik; exact hleaf hk15 (h.deep j b i hk hk15)
    · exact h.deep j b k hk hk15
  rootInner := by
    rw [slotAt_setSlot]; split
    · rename_i hi; exact hroot hi
    · exact h.rootInner
  symbols j := by
    rw [slotAt_setSlot]; split
    · exact hw
    · exact h.symbols j

/-! ### The builder's rules -/

/-- What a slot taken before keeps while others are added: its depth and its leaf flag. -/
structure KeepsTaken (depth : Slot → Nat) (s : State) (depth' : Slot → Nat) (t : State) : Prop where
  nextFree : s.nextFree.val ≤ t.nextFree.val
  depth_eq : ∀ k : Slot, k.val < s.nextFree.val → depth' k = depth k
  leaf_eq : ∀ k : Slot, k.val < s.nextFree.val → (slotAt t.arena k).leaf = (slotAt s.arena k).leaf

theorem KeepsTaken.trans {d1 d2 d3 : Slot → Nat} {s t u : State} (h1 : KeepsTaken d1 s d2 t)
    (h2 : KeepsTaken d2 t d3 u) : KeepsTaken d1 s d3 u where
  nextFree := h1.nextFree.trans h2.nextFree
  depth_eq k hk := (h2.depth_eq k (hk.trans_le h1.nextFree)).trans (h1.depth_eq k hk)
  leaf_eq k hk := (h2.leaf_eq k (hk.trans_le h1.nextFree)).trans (h1.leaf_eq k hk)

/-- The walk's new internal node, one level below a taken slot above depth 14. -/
theorem addInternal_bounded {s u : State} {i c : Slot} (b : Bool)
    (h : BoundedTrie depth s.arena s.nextFree.val) (hi : i.val < s.nextFree.val) (hdepth : depth i < 14)
    (htake : takeSlot s = .ok (c, u)) :
    BoundedTrie (Function.update depth c (depth i + 1)) ((u.setChild i b c).setLeaf c false).arena
      (s.nextFree.val + 1) ∧
    KeepsTaken depth s (Function.update depth c (depth i + 1)) ((u.setChild i b c).setLeaf c false) := by
  obtain ⟨hc, hroom, rfl⟩ := takeSlot_eq_ok.1 htake
  have hcdepth : Function.update depth c (depth i + 1) c = depth i + 1 := Function.update_self ..
  have hkept : ∀ k : Slot, k.val < s.nextFree.val → k ≠ c := fun k hk => Fin.ne_of_val_ne (by omega)
  have hc0 : c ≠ 0 := (hkept 0 h.taken).symm
  have hidepth : Function.update depth c (depth i + 1) i = depth i := Function.update_of_ne (hkept i hi) ..
  have hlinked := (h.take hc.symm (depth i + 1)).link (i := i) (c := c) b (by omega) (by omega) hc0
    (by rw [hcdepth, hidepth]) (fun e => by omega)
  refine ⟨hlinked.label (hlinked.symbols c) (fun _ => rfl) (fun e => by omega), Nat.le_succ _,
    fun k hk => Function.update_of_ne (hkept k hk) .., fun k hk => ?_⟩
  exact (congrArg Node.leaf (slotAt_setSlot_other _ _ (hkept k hk))).trans
    (leaf_setSlot_setChild s.arena i c k b)

/-- The insertion walk ends at a taken slot, as many levels down as its path is long. -/
theorem walkPath_bounded {p : List Bool} {i j : Slot} {s t : State}
    (h : BoundedTrie depth s.arena s.nextFree.val) (hi : i.val < s.nextFree.val)
    (hdepth : depth i + p.length ≤ 14) (hwalk : walkPath p i s = .ok (j, t)) :
    ∃ depth', BoundedTrie depth' t.arena t.nextFree.val ∧ KeepsTaken depth s depth' t ∧
      j.val < t.nextFree.val ∧ depth' j = depth i + p.length := by
  induction p generalizing i s depth with
  | nil =>
    rw [walkPath_nil] at hwalk; cases hwalk
    exact ⟨depth, h, ⟨le_rfl, fun _ _ => rfl, fun _ _ => rfl⟩, hi, rfl⟩
  | cons b p ih =>
    rw [List.length_cons] at hdepth ⊢
    cases hc : (slotAt s.arena i).child b with
    | some c =>
      rw [walkPath_cons_some hc] at hwalk
      obtain ⟨hcdepth, -, hctaken⟩ := h.child i b c hc
      obtain ⟨depth', ht, hkeep, hj, hjdepth⟩ := ih h hctaken (by omega) hwalk
      exact ⟨depth', ht, hkeep, hj, by omega⟩
    | none =>
      rw [walkPath_cons_none hc, except_bind_eq_ok] at hwalk
      obtain ⟨⟨c, u⟩, htake, hwalk⟩ := hwalk
      obtain ⟨hadded, hkeep⟩ := addInternal_bounded b h hi (by omega) htake
      obtain ⟨hcval, hroom, rfl⟩ := takeSlot_eq_ok.1 htake
      have hcdepth : Function.update depth c (depth i + 1) c = depth i + 1 := Function.update_self ..
      obtain ⟨depth', ht, hkeep', hj, hjdepth⟩ :=
        ih hadded (show c.val < s.nextFree.val + 1 by omega) (by omega) hwalk
      exact ⟨depth', ht, hkeep.trans hkeep', hj, by omega⟩

/-- A reserved leaf may be given any depth: no path leads to it yet. -/
theorem reserveLeaf_bounded {sym : U16} {leafSlot : Slot} {s u : State}
    (h : BoundedTrie depth s.arena s.nextFree.val) (hsym : sym.toNat < 512)
    (hreserve : reserveLeaf sym s = .ok (leafSlot, u)) (d : Nat) :
    BoundedTrie (Function.update depth leafSlot d) u.arena u.nextFree.val ∧
    s.nextFree.val = leafSlot.val ∧ leafSlot.val < u.nextFree.val ∧
    (slotAt u.arena leafSlot).leaf = true := by
  obtain ⟨v, htake, rfl⟩ := reserveLeaf_eq_ok.1 hreserve
  obtain ⟨hval, hroom, rfl⟩ := takeSlot_eq_ok.1 htake
  have hne : leafSlot ≠ 0 := Fin.ne_of_val_ne (by have := h.taken; simp; omega)
  have htaken := h.take hval.symm d
  have hnamed := htaken.label (i := leafSlot) (v := (slotAt s.arena leafSlot).leaf) hsym
    (fun e => absurd e hne) (fun _ hl => hl)
  refine ⟨hnamed.label (hnamed.symbols leafSlot) (fun e => absurd e hne) (fun _ _ => rfl), hval, ?_, ?_⟩
  · show leafSlot.val < s.nextFree.val + 1; omega
  · exact congrArg Node.leaf (slotAt_setSlot_self ..)

theorem htInsert_bounded {sym : U16} {code : U32} {bits : Nat} {s t : State}
    (h : BoundedTrie depth s.arena s.nextFree.val) (hsym : sym.toNat < 512) (hbits : bits ≤ 15)
    (hinsert : htInsert sym code bits s = .ok t) :
    ∃ depth', BoundedTrie depth' t.arena t.nextFree.val := by
  obtain ⟨hpos, l, u, j, v, hreserve, hwalk, rfl⟩ := htInsert_eq_ok.1 hinsert
  obtain ⟨hu, hval, hl, hleaf⟩ := reserveLeaf_bounded h hsym hreserve bits
  have hlength : (pathBits code bits).dropLast.length = bits - 1 := by simp
  have htaken := h.taken
  have hl0 : l ≠ 0 := Fin.ne_of_val_ne (by simp; omega)
  obtain ⟨depth', hv, hkeep, hj, hjdepth⟩ :=
    walkPath_bounded hu hu.taken (by rw [hu.rootDepth, hlength]; omega) hwalk
  rw [hu.rootDepth, hlength] at hjdepth
  have hldepth : depth' l = bits := (hkeep.depth_eq l hl).trans (Function.update_self ..)
  exact ⟨depth', hv.link (code.getLsbD 0) hj (hl.trans_le hkeep.nextFree) hl0 (by omega)
    fun _ => (hkeep.leaf_eq l hl).trans hleaf⟩

theorem assignEntry_bounded {e : CslEntry} {s t : State}
    (h : BoundedTrie depth s.arena s.nextFree.val) (hsym : e.sym.toNat < 512)
    (hassign : assignEntry e s = .ok t) : ∃ depth', BoundedTrie depth' t.arena t.nextFree.val := by
  obtain ⟨u, hinsert, rfl⟩ := assignEntry_eq_ok.1 hassign
  obtain ⟨depth', hu⟩ := htInsert_bounded (by exact h) hsym (Nat.le_of_lt_succ e.len.isLt) hinsert
  exact ⟨depth', hu⟩

theorem assignAll_bounded {l : List CslEntry} {s t : State}
    (h : BoundedTrie depth s.arena s.nextFree.val) (hsym : ∀ e ∈ l, e.sym.toNat < 512)
    (hassign : assignAll l s = .ok t) : ∃ depth', BoundedTrie depth' t.arena t.nextFree.val := by
  induction l generalizing s depth with
  | nil => cases hassign; exact ⟨depth, h⟩
  | cons e l ih =>
    obtain ⟨u, hentry, hrest⟩ := except_bind_eq_ok.1 hassign
    obtain ⟨depth', hu⟩ := assignEntry_bounded h (hsym e (by simp)) hentry
    exact ih hu (fun e' he' => hsym e' (by simp [he'])) hrest

/-! ### The builder's symbols -/

theorem mem_usedEntries {cl : Vector Nibble 512} {e : CslEntry} :
    e ∈ usedEntries cl ↔
      ∃ j : Fin 512, codeLength cl j ≠ 0 ∧ e = ⟨BitVec.ofNat 16 j.val, codeLength cl j⟩ := by
  simp only [usedEntries, List.mem_filter, List.mem_map, Prod.exists, List.mk_mem_zipIdx_iff_getElem?]
  constructor
  · rintro ⟨⟨len, j, hj, rfl⟩, hlen⟩
    obtain ⟨hlt, rfl⟩ := List.getElem?_eq_some_iff.1 hj
    exact ⟨⟨j, by simpa using hlt⟩, by simpa [codeLength] using hlen, by simp [codeLength]⟩
  · rintro ⟨j, hj, rfl⟩
    exact ⟨⟨codeLength cl j, j.val, by simp [codeLength], rfl⟩, by simpa using hj⟩

theorem mem_canonicalList {cl : Vector Nibble 512} {e : CslEntry} :
    e ∈ canonicalList cl ↔
      ∃ j : Fin 512, codeLength cl j ≠ 0 ∧ e = ⟨BitVec.ofNat 16 j.val, codeLength cl j⟩ := by
  rw [canonicalList, List.mem_insertionSort, mem_usedEntries]

theorem canonicalList_sym_lt {cl : Vector Nibble 512} {e : CslEntry} (h : e ∈ canonicalList cl) :
    e.sym.toNat < 512 := by
  obtain ⟨j, -, rfl⟩ := mem_canonicalList.1 h
  have := j.isLt
  rw [BitVec.toNat_ofNat]; omega

/-! ### The whole builder -/

/-- The root of a clear arena is no leaf already. -/
theorem setLeaf_root_fresh {s : State} (h : s.arena = freshArena) :
    (s.setLeaf 0 false).arena = freshArena := by
  have hroot : { slotAt freshArena 0 with leaf := false } = slotAt freshArena 0 := by
    rw [slotAt_freshArena]; rfl
  rw [setLeaf_arena, h, hroot]
  exact Vector.set_getElem_self _

theorem htAssign_arenaOk {s t : State} (harena : s.arena = freshArena)
    (hsym : ∀ e ∈ s.csl, e.sym.toNat < 512) (h : htAssign s = .ok t) : ArenaOk t.arena := by
  have hstart : BoundedTrie (fun _ => 0) (s.setLeaf 0 false).arena 1 := by
    rw [setLeaf_root_fresh harena]; exact boundedTrie_fresh
  obtain ⟨depth, hbounded⟩ := assignAll_bounded (by exact hstart) hsym h
  exact hbounded.arenaOk

/-- From a clear arena the builder makes a trie the decoder can walk. -/
theorem builder_arenaOk {s t : State} (harena : s.arena = freshArena) (h : builder s = .ok t) :
    ArenaOk t.arena := by
  obtain ⟨u, hexpand, -, hassign⟩ := builder_eq_ok.1 h
  obtain ⟨-, rfl⟩ := htExpand_eq_ok.1 hexpand
  refine htAssign_arenaOk ?_ (fun e he => ?_) hassign
  · rw [htSort_arena]; exact harena
  · exact canonicalList_sym_lt (cl := tableLengths s) he

theorem EngineMove.arenaInv {s t : State} (h : EngineMove s t) (hs : ArenaInv s) : ArenaInv t := by
  obtain ⟨hclear, hwalkable⟩ := hs
  cases h with
  | wait => exact ⟨hclear, hwalkable⟩
  | fail => exact ⟨by simp, by simp⟩
  | build hphase hbuilt =>
    have hbuiltOk := builder_arenaOk (hclear hphase) hbuilt
    exact ⟨by simp, fun _ => hbuiltOk⟩
  | init hphase hloaded =>
    obtain ⟨w0, w1, -, -, rfl⟩ := brInit_eq_ok.1 hloaded
    exact ⟨by simp, fun _ => hwalkable (.inl hphase)⟩
  | @token i _ u _ hphase hwalk hrun =>
    have hwalked := (tdDecode_ok hwalk).1
    have hphaseU : u.phase = .token := by rw [hwalked]; exact hphase
    have harena : t.arena = s.arena := by rw [hrun.onlyToken, hwalked]
    refine ⟨fun hbuild => ?_, fun _ => harena ▸ hwalkable (.inr hphase)⟩
    obtain ⟨e, rfl⟩ | hmatch | rfl := hrun.ends
    · cases hbuild
    · rw [hmatch, hphaseU] at hbuild; cases hbuild
    · cases hbuild

/-- Settles O53: START clears the arena, the builder keeps every path within depth 15, and no other step
writes it. -/
theorem stepKeepsTheTrieWalkable : Obligations.StepKeepsTheTrieWalkable := by
  intro s t hs h
  obtain ⟨rest, -, hmove⟩ := step_move h
  cases hmove with
  | engine hmove => exact hmove.arenaInv hs
  | launch => exact ⟨fun _ => rfl, by simp⟩
  | launchFail => exact ⟨by simp, by simp⟩
  | store => exact hs

end Sys2Proof.Machine
end

section
/-! PROOFS. Region reads (20 R61, R62), and OUT as a token leaves it (20 R64, 44 R207). -/
namespace Sys2Proof.Machine

/-! ### Region reads -/

/-- The low byte has the weight 1, the high byte 256 (20 R62). -/
theorem littleEndian_toNat (low high : Byte) :
    (littleEndian low high).toNat = low.toNat + 256 * high.toNat := by
  rw [littleEndian, BitVec.toNat_append, ← Nat.shiftLeft_add_eq_or_of_lt low.isLt, Nat.shiftLeft_eq]
  omega

theorem memRead2_eq_some_iff_memRead1 {s : State} {i : Nat} {w : U16} :
    memRead2 s i = some w ↔ ∃ low high, memRead1 s i = some low ∧ memRead1 s (i + 1) = some high ∧
      w = littleEndian low high := by
  simp only [memRead2_eq_some, memRead1_eq_some]
  constructor
  · rintro ⟨⟨hlow, hhigh⟩, rfl⟩
    exact ⟨_, _, ⟨hlow, rfl⟩, ⟨hhigh, rfl⟩, rfl⟩
  · rintro ⟨_, _, ⟨hlow, rfl⟩, ⟨hhigh, rfl⟩, rfl⟩
    exact ⟨⟨hlow, hhigh⟩, rfl⟩

/-- Settles O27: the check is `readable`, and the pair of bytes is read as one little-endian value. -/
theorem regionReadsAreBoundsChecked : Obligations.RegionReadsAreBoundsChecked := by
  refine fun s i => ⟨fun b => ?_, fun w => ?_⟩
  · rw [memRead1_eq_some, readable_iff, regionByte, eq_comm (b := b)]
  · simp only [memRead2_eq_some_iff_memRead1, ← BitVec.toNat_inj, littleEndian_toNat]

/-! ### OUT -/

/-- A token that does not fail keeps the bytes of OUT as the first ones, and goes on or succeeds. -/
theorem TokenRun.out_prefix {i : Instr} {s t : State} (h : TokenRun i s t) :
    (∃ e, t = abort e s) ∨ s.out <+: t.out ∧ (t.phase = s.phase ∨ t.phase = .doneOk) := by
  cases h with
  | fail e => exact .inl ⟨e, rfl⟩
  | lit => exact .inr ⟨List.prefix_append _ _, .inl rfl⟩
  | eos => exact .inr ⟨List.prefix_refl _, .inr rfl⟩
  | matchTok hdist hfinish =>
    obtain ⟨hframe, hprefix⟩ := finishMatch_frame hfinish
    obtain ⟨x, -, rfl⟩ := matchDistance_eq_ok.1 hdist
    exact .inr ⟨hprefix, .inl (by rw [hframe]; rfl)⟩
  | matchLong hdist hlength hfinish =>
    obtain ⟨hframe, hprefix⟩ := finishMatch_frame hfinish
    obtain ⟨x, -, rfl⟩ := matchDistance_eq_ok.1 hdist
    rw [longLength_frame hlength] at hframe hprefix
    exact .inr ⟨hprefix, .inl (by rw [hframe]; rfl)⟩

/-- Settles O18: a failure empties OUT, and any other end of a token keeps its bytes as the first ones. -/
theorem outputOnlyGrowsUnlessTheDecodeFails : Obligations.OutputOnlyGrowsUnlessTheDecodeFails := by
  intro i s t hphase h
  obtain ⟨e, rfl⟩ | ⟨hprefix, hend⟩ := (exec_tokenRun h).out_prefix
  · exact .inl ⟨rfl, rfl⟩
  · refine .inr ⟨?_, hprefix.length_le, fun j hj => ?_⟩
    · obtain hsame | hok := hend
      · simp [hsame, hphase]
      · simp [hok]
    · rw [List.getElem?_eq_getElem hj, List.prefix_iff_getElem?.1 hprefix j hj]

end Sys2Proof.Machine
end

section
/-! PROOFS. The symbol map of 30 R85 and R86, and the distances of 30 R90, as arithmetic on the fields. -/
namespace Sys2Proof

/-! ### The fields of a symbol and the symbol of a token -/

theorem offsetBitsField_toNat (s : Symbol) : (offsetBitsField s).toNat = s.toNat / 16 % 16 := by
  simp [offsetBitsField, Nat.shiftRight_eq_div_pow]

theorem lengthCodeField_toNat (s : Symbol) : (lengthCodeField s).toNat = s.toNat % 16 := by
  simp [lengthCodeField]

theorem encodeSymbol_lit_toNat (b : Byte) : (encodeSymbol (.lit b)).toNat = b.toNat := by
  change (0#1 ++ b).toNat = b.toNat
  rw [BitVec.toNat_append, BitVec.toNat_ofNat, Nat.zero_mod, Nat.zero_shiftLeft, Nat.zero_or]

/-- A 1, then two nibbles: the layout MATCH and MATCH_LONG share. -/
theorem matchSymbol_toNat (ob lc : Nibble) : (1#1 ++ ob ++ lc).toNat = 256 + 16 * ob.toNat + lc.toNat := by
  rw [BitVec.toNat_append, BitVec.toNat_append, ← Nat.shiftLeft_add_eq_or_of_lt ob.isLt,
    ← Nat.shiftLeft_add_eq_or_of_lt lc.isLt, Nat.shiftLeft_eq, Nat.shiftLeft_eq, BitVec.toNat_ofNat]
  omega

theorem encodeSymbol_matchTok_toNat (ob lc : Nibble) :
    (encodeSymbol (.matchTok ob lc)).toNat = 256 + 16 * ob.toNat + lc.toNat := matchSymbol_toNat ob lc

theorem encodeSymbol_matchLong_toNat (ob : Nibble) :
    (encodeSymbol (.matchLong ob)).toNat = 256 + 16 * ob.toNat + 15 := matchSymbol_toNat ob 15#4

theorem Instr.wf_matchTok_iff {ob lc : Nibble} :
    (Instr.matchTok ob lc).wf = true ↔ lc ≠ 15 ∧ 0 < 16 * ob.toNat + lc.toNat := by
  have hzero (x : Nibble) : x = 0 ↔ x.toNat = 0 := BitVec.toNat_inj.symm
  simp only [Instr.wf, Bool.and_eq_true, bne_iff_ne, Bool.not_eq_true', Bool.and_eq_false_iff,
    beq_eq_false_iff_ne, ne_eq, hzero]
  exact and_congr_right' (by omega)

/-! ### The decoder by the range of the symbol -/

theorem decodeSymbol_of_lt {s : Symbol} (h : s.toNat < 256) : decodeSymbol s = .lit (s.extractLsb' 0 8) :=
  if_pos h

theorem decodeSymbol_of_gt {s : Symbol} (h : 256 < s.toNat) (hlc : lengthCodeField s ≠ 15) :
    decodeSymbol s = .matchTok (offsetBitsField s) (lengthCodeField s) := by
  rw [decodeSymbol, if_neg (by omega), if_neg (by omega), if_pos hlc]

theorem decodeSymbol_of_gt_long {s : Symbol} (h : 256 < s.toNat) (hlc : lengthCodeField s = 15) :
    decodeSymbol s = .matchLong (offsetBitsField s) := by
  rw [decodeSymbol, if_neg (by omega), if_neg (by omega), if_neg (not_not.2 hlc)]

/-- The four ranges of a symbol, each with its token. -/
theorem decodeSymbol_cases (s : Symbol) :
    (s.toNat < 256 ∧ decodeSymbol s = .lit (s.extractLsb' 0 8)) ∨
    (s = 256#9 ∧ decodeSymbol s = .eos) ∨
    (256 < s.toNat ∧ lengthCodeField s ≠ 15 ∧
      decodeSymbol s = .matchTok (offsetBitsField s) (lengthCodeField s)) ∨
    (256 < s.toNat ∧ lengthCodeField s = 15 ∧ decodeSymbol s = .matchLong (offsetBitsField s)) := by
  obtain h | h | h := Nat.lt_trichotomy s.toNat 256
  · exact .inl ⟨h, decodeSymbol_of_lt h⟩
  · obtain rfl : s = 256#9 := BitVec.eq_of_toNat_eq h
    exact .inr (.inl ⟨rfl, rfl⟩)
  · by_cases hlc : lengthCodeField s = 15
    · exact .inr (.inr (.inr ⟨h, hlc, decodeSymbol_of_gt_long h hlc⟩))
    · exact .inr (.inr (.inl ⟨h, hlc, decodeSymbol_of_gt h hlc⟩))

/-! ### The round trip -/

theorem wf_decodeSymbol (s : Symbol) : (decodeSymbol s).wf = true := by
  obtain ⟨-, h⟩ | ⟨-, h⟩ | ⟨hgt, hlc, h⟩ | ⟨-, -, h⟩ := decodeSymbol_cases s
  · rw [h]; rfl
  · rw [h]; rfl
  · have hlt : s.toNat < 512 := s.isLt
    rw [h, Instr.wf_matchTok_iff, offsetBitsField_toNat, lengthCodeField_toNat]
    exact ⟨hlc, by omega⟩
  · rw [h]; rfl

theorem encodeSymbol_decodeSymbol (s : Symbol) : encodeSymbol (decodeSymbol s) = s := by
  have hlt : s.toNat < 512 := s.isLt
  apply BitVec.eq_of_toNat_eq
  obtain ⟨hlit, h⟩ | ⟨rfl, -⟩ | ⟨hgt, -, h⟩ | ⟨hgt, hlc, h⟩ := decodeSymbol_cases s
  · rw [h, encodeSymbol_lit_toNat, BitVec.extractLsb'_toNat, Nat.shiftRight_zero]
    exact Nat.mod_eq_of_lt hlit
  · rfl
  · rw [h, encodeSymbol_matchTok_toNat, offsetBitsField_toNat, lengthCodeField_toNat]
    omega
  · have hlow : s.toNat % 16 = 15 := by rw [← lengthCodeField_toNat, hlc]; rfl
    rw [h, encodeSymbol_matchLong_toNat, offsetBitsField_toNat]
    omega

theorem offsetBitsField_of_toNat {s : Symbol} {ob lc : Nibble}
    (h : s.toNat = 256 + 16 * ob.toNat + lc.toNat) : offsetBitsField s = ob :=
  BitVec.eq_of_toNat_eq (by rw [offsetBitsField_toNat, h]; omega)

theorem lengthCodeField_of_toNat {s : Symbol} {ob lc : Nibble}
    (h : s.toNat = 256 + 16 * ob.toNat + lc.toNat) : lengthCodeField s = lc :=
  BitVec.eq_of_toNat_eq (by rw [lengthCodeField_toNat, h]; omega)

theorem decodeSymbol_encodeSymbol {i : Instr} (h : i.wf = true) : decodeSymbol (encodeSymbol i) = i := by
  cases i with
  | lit b =>
    have hs := encodeSymbol_lit_toNat b
    rw [decodeSymbol_of_lt (hs ▸ b.isLt), Instr.lit.injEq]
    apply BitVec.eq_of_toNat_eq
    rw [BitVec.extractLsb'_toNat, hs, Nat.shiftRight_zero]
    exact Nat.mod_eq_of_lt b.isLt
  | eos => rfl
  | matchTok ob lc =>
    obtain ⟨hlc, hpos⟩ := Instr.wf_matchTok_iff.1 h
    have hs := encodeSymbol_matchTok_toNat ob lc
    have hfield := lengthCodeField_of_toNat hs
    rw [decodeSymbol_of_gt (by omega) (hfield.symm ▸ hlc), hfield, offsetBitsField_of_toNat hs]
  | matchLong ob =>
    have hs := encodeSymbol_matchLong_toNat ob
    rw [decodeSymbol_of_gt_long (by omega) (lengthCodeField_of_toNat (lc := 15) hs),
      offsetBitsField_of_toNat (lc := 15) hs]

/-! ### Stored words -/

theorem decode_eq_ok {w : U16} {i : Instr} :
    decode w = .ok i ↔ w.toNat < 512 ∧ decodeSymbol (w.setWidth 9) = i := by
  rw [decode]
  split <;> simp_all

/-- A word below 512 is its low 9 bits, stored. -/
theorem symbol_setWidth_eq_iff {w : U16} {s : Symbol} :
    s.setWidth 16 = w ↔ w.toNat < 512 ∧ w.setWidth 9 = s := by
  have hs : s.toNat < 512 := s.isLt
  simp only [← BitVec.toNat_inj, BitVec.toNat_setWidth]
  omega

/-- Settles O1: below 512 the word is a symbol, and on symbols the two maps undo each other. -/
theorem decodeInvertsEncode : Obligations.DecodeInvertsEncode := by
  intro w i
  rw [decode_eq_ok, encode, symbol_setWidth_eq_iff]
  constructor
  · rintro ⟨hlt, rfl⟩
    exact ⟨wf_decodeSymbol _, hlt, (encodeSymbol_decodeSymbol _).symm⟩
  · rintro ⟨hwf, hlt, hs⟩
    exact ⟨hlt, hs ▸ decodeSymbol_encodeSymbol hwf⟩

theorem decode_encode {i : Instr} (h : i.wf = true) : decode (encode i) = .ok i :=
  (decodeInvertsEncode _ i).2 ⟨h, rfl⟩

/-- Settles O3: each of the six words is its well-formed token's encoding, and 512 is no symbol. -/
theorem sampleSymbolsDecode : Obligations.SampleSymbolsDecode :=
  ⟨decode_encode (i := .lit 0x41) rfl, decode_encode (i := .eos) rfl,
    decode_encode (i := .matchTok 0 1) rfl, decode_encode (i := .matchTok 15 14) rfl,
    decode_encode (i := .matchLong 0) rfl, decode_encode (i := .matchLong 15) rfl, rfl⟩

/-! ### The opcode table -/

theorem tableMnemonic_encodeSymbol {i : Instr} (h : i.wf = true) :
    tableMnemonic (encodeSymbol i) = some i.mnemonic := by
  cases i with
  | lit b => exact Laws.RowMatch.lit b h
  | eos => exact Laws.RowMatch.eos h
  | matchTok ob lc => exact Laws.RowMatch.matchTok ob lc h
  | matchLong ob => exact Laws.RowMatch.matchLong ob h

/-- Settles O2: a symbol is the encoding of its own well-formed token, which meets its row. -/
theorem everySymbolDecodesToItsTableRow : Obligations.EverySymbolDecodesToItsTableRow := by
  intro s
  rw [← tableMnemonic_encodeSymbol (wf_decodeSymbol s), encodeSymbol_decodeSymbol]

/-! ### Distances -/

open Machine (distanceOf)

/-- OB is at most 15, so the sum of R174 does not wrap. -/
theorem distanceOf_toNat {ob : Nibble} {extra : U32} (h : extra.toNat < 2 ^ ob.toNat) :
    (distanceOf ob extra).toNat = 2 ^ ob.toNat + extra.toNat := by
  have hpow : 2 ^ ob.toNat ≤ 2 ^ 15 := Nat.pow_le_pow_right (by decide) (by omega)
  have hone : ((1 : U32) <<< ob.toNat).toNat = 2 ^ ob.toNat := by
    rw [BitVec.toNat_shiftLeft, Nat.shiftLeft_eq]
    change 1 * 2 ^ ob.toNat % 2 ^ 32 = 2 ^ ob.toNat
    omega
  rw [distanceOf, BitVec.toNat_add, hone]
  omega

/-- OB is the exponent of the largest power of 2 within the distance, EXTRA what remains. -/
theorem distanceOf_eq_iff {ob : Nibble} {extra : U32} {d : Nat} (hd : d ≠ 0) :
    (extra.toNat < 2 ^ ob.toNat ∧ (distanceOf ob extra).toNat = d) ↔
      ob.toNat = Nat.log 2 d ∧ extra.toNat = d - 2 ^ Nat.log 2 d := by
  constructor
  · rintro ⟨hextra, rfl⟩
    rw [distanceOf_toNat hextra, Nat.log_eq_of_pow_le_of_lt_pow (m := ob.toNat) (by omega) (by omega)]
    omega
  · rintro ⟨hob, hextra⟩
    have hle := Nat.pow_log_le_self 2 hd
    have hlt := Nat.lt_pow_succ_log_self (b := 2) (by decide) d
    rw [← hob] at hextra hle hlt
    have hextra_lt : extra.toNat < 2 ^ ob.toNat := by omega
    exact ⟨hextra_lt, by rw [distanceOf_toNat hextra_lt]; omega⟩

/-- Settles O4: OB and EXTRA are the distance's binary logarithm and remainder, and both fit their fields. -/
theorem eachDistanceHasOneEncoding : Obligations.EachDistanceHasOneEncoding := by
  refine ⟨fun d hd1 hd2 => ?_, fun ob extra h => ?_⟩
  · simp only [distanceOf_eq_iff (Nat.one_le_iff_ne_zero.1 hd1)]
    have hlog : Nat.log 2 d < 16 := Nat.log_lt_of_lt_pow (by omega) (by omega)
    have hob : (BitVec.ofNat 4 (Nat.log 2 d)).toNat = Nat.log 2 d := Nat.mod_eq_of_lt hlog
    have hextra : (BitVec.ofNat 32 (d - 2 ^ Nat.log 2 d)).toNat = d - 2 ^ Nat.log 2 d :=
      Nat.mod_eq_of_lt ((Nat.sub_le _ _).trans_lt (by omega))
    refine ⟨(_, _), ⟨hob, hextra⟩, fun p ⟨hp1, hp2⟩ => Prod.ext ?_ ?_⟩
    · exact BitVec.eq_of_toNat_eq (hp1.trans hob.symm)
    · exact BitVec.eq_of_toNat_eq (hp2.trans hextra.symm)
  · rw [distanceOf_toNat h]
    omega

end Sys2Proof
end

section
/-! PROOFS. The bit_reader's window as a list of pending bits (30 R83, R84, 40 R110 to R116). -/
namespace Sys2Proof.Machine

/-! ### The bits of a window and of a word -/

@[simp] theorem length_topBits (w : U32) (n : Nat) : (topBits w n).length = n := by simp [topBits]

@[simp] theorem length_wordBits (w : U16) : (wordBits w).length = 16 := by simp [wordBits]

@[simp] theorem getElem_topBits (w : U32) {n k : Nat} (h : k < (topBits w n).length) :
    (topBits w n)[k] = w.getLsbD (31 - k) := by simp [topBits]

@[simp] theorem getElem_wordBits (w : U16) {k : Nat} (h : k < (wordBits w).length) :
    (wordBits w)[k] = w.getLsbD (15 - k) := by simp [wordBits]

theorem topBits_succ (w : U32) (n : Nat) : topBits w (n + 1) = topBits w n ++ [w.getLsbD (31 - n)] := by
  simp [topBits, List.range_succ]

theorem take_topBits (w : U32) {n m : Nat} (h : n ≤ m) : (topBits w m).take n = topBits w n :=
  List.ext_getElem (by simpa using h) fun k _ _ => by simp

/-- A left shift consumes the first bits (40 R112). -/
theorem topBits_shiftLeft (w : U32) {n m : Nat} (h : n + m ≤ 32) :
    topBits (w <<< n) m = (topBits w (n + m)).drop n := by
  refine List.ext_getElem (by simp) fun k hk _ => ?_
  have hk : k < m := by simpa using hk
  rw [getElem_topBits, List.getElem_drop, getElem_topBits, BitVec.getLsbD_shiftLeft,
    decide_eq_true (show 31 - k < 32 by omega), decide_eq_false (show ¬ 31 - k < n by omega),
    show 31 - k - n = 31 - (n + k) by omega]
  rfl

/-- A word placed just below `m` valid bits follows them, bit 15 first (30 R83, 40 R113). -/
theorem topBits_or_word {x : U32} {m : Nat} (w : U16) (hm : m ≤ 16)
    (hx : ∀ i, i < 32 - m → x.getLsbD i = false) :
    topBits (x ||| (w.setWidth 32 <<< (16 - m))) (m + 16) = topBits x m ++ wordBits w := by
  refine List.ext_getElem (by simp) fun k hk _ => ?_
  have hk : k < m + 16 := by simpa using hk
  rw [getElem_topBits, BitVec.getLsbD_or, BitVec.getLsbD_shiftLeft, BitVec.getLsbD_setWidth]
  by_cases hkm : k < m
  · have habove : w.getLsbD (31 - k - (16 - m)) = false := BitVec.getLsbD_of_ge _ _ (by omega)
    simp [List.getElem_append_left, hkm, habove]
  · have hbit : 31 - k - (16 - m) = 15 - (k - m) := by omega
    rw [List.getElem_append_right (by simpa using hkm), hx _ (by omega), hbit]
    simp [show 31 - k < 32 by omega, show ¬ 31 - k < 16 - m by omega, show 15 - (k - m) < 32 by omega]

/-! ### The value of bits read most significant first (30 R84) -/

theorem bitsValue_concat (l : List Bool) (b : Bool) : bitsValue (l ++ [b]) = 2 * bitsValue l + b.toNat := by
  simp [bitsValue]

theorem bitsValue_topBits (w : U32) {n : Nat} (h : n ≤ 32) :
    bitsValue (topBits w n) = w.toNat / 2 ^ (32 - n) := by
  induction n with
  | zero => rw [Nat.div_eq_of_lt w.isLt]; rfl
  | succ n ih =>
    have hpow : 2 ^ (32 - n) = 2 ^ (31 - n) * 2 := by rw [← Nat.pow_succ]; congr 1; omega
    rw [topBits_succ, bitsValue_concat, ih (by omega), hpow, ← Nat.div_div_eq_div_mul, ← BitVec.testBit_toNat,
      Nat.toNat_testBit, show 32 - (n + 1) = 31 - n by omega, Nat.div_add_mod]

/-- Settles O23: the right shift keeps the first `n` bits of MASK, and they are the pending ones. -/
theorem peekReadsTheNextBits : Obligations.PeekReadsTheNextBits := by
  intro n s hle hhigh
  have hvalue : bitsValue ((pendingBits s).take n) = s.mask.toNat / 2 ^ (32 - n) := by
    rw [pendingBits, take_topBits _ (by omega), bitsValue_topBits _ (by omega)]
  by_cases hn : n = 0
  · subst hn
    exact ⟨0, brPeek_eq_ok.2 (.inl ⟨rfl, rfl⟩), rfl⟩
  · refine ⟨s.mask >>> (32 - n), brPeek_eq_ok.2 (.inr ⟨hn, hle, rfl⟩), ?_⟩
    rw [hvalue, BitVec.toNat_ushiftRight, Nat.shiftRight_eq_div_pow]

/-- Settles O24: with OB = 0 the peek is of 0 bits, and the distance is 1 + 0. -/
theorem peekOfZeroBitsIsZero : Obligations.PeekOfZeroBitsIsZero := by
  have hpeek : ∀ s : State, brPeek 0 s = .ok 0 := fun _ => brPeek_eq_ok.2 (.inl ⟨rfl, rfl⟩)
  refine ⟨hpeek, fun s hob => ⟨_, matchDistance_eq_ok.2 ⟨0, by rw [hob]; exact hpeek s, rfl⟩, rfl, ?_⟩⟩
  show distanceOf s.ob 0 = 1
  rw [hob]; decide

/-! ### BR_INIT -/

theorem brInit_eq_error {s : State} {e : ErrClass} :
    brInit s = .error e ↔ (memRead2 s 256 = none ∨ memRead2 s 258 = none) ∧ e = .bitUnderflow := by
  simp only [brInit, except_bind_eq_error, orRaise_eq_ok, orRaise_eq_error, Config.streamStart]
  cases memRead2 s 256 <;> cases memRead2 s 258 <;> simp [eq_comm]

theorem engineStep_of_init {s : State} (h : s.phase = .init) : engineStep s = initStep s := by
  simp [engineStep, h]

/-- The window after BR_INIT: the first word, then the second. -/
theorem topBits_two_words (w0 w1 : U16) :
    topBits ((w0.setWidth 32 <<< 16) ||| w1.setWidth 32) 32 = wordBits w0 ++ wordBits w1 := by
  have hfirst : topBits (w0.setWidth 32 <<< 16) 16 = wordBits w0 := by
    simpa [topBits] using topBits_or_word (x := 0) (m := 0) w0 (by omega) (by simp)
  have hboth := topBits_or_word (x := w0.setWidth 32 <<< 16) (m := 16) w1 le_rfl fun i hi => by
    simp [BitVec.getLsbD_shiftLeft, show i < 16 from hi]
  rwa [hfirst, BitVec.shiftLeft_zero] at hboth

theorem toNat_two_words (w0 w1 : U16) :
    ((w0.setWidth 32 <<< 16) ||| w1.setWidth 32).toNat = w0.toNat * 65536 + w1.toNat := by
  have h0 := w0.isLt
  have h1 := w1.isLt
  rw [BitVec.toNat_or, BitVec.toNat_shiftLeft, BitVec.toNat_setWidth_of_le (by decide),
    BitVec.toNat_setWidth_of_le (by decide), Nat.mod_eq_of_lt (by rw [Nat.shiftLeft_eq]; omega),
    ← Nat.shiftLeft_add_eq_or_of_lt h1, Nat.shiftLeft_eq]

/-- Settles O22: both words make the window, and a missing one is the init's only failure. -/
theorem initLoadsTheFirstTwoWords : Obligations.InitLoadsTheFirstTwoWords := by
  refine fun s => ⟨fun w0 w1 hread0 hread1 => ?_, fun hmissing => ?_⟩
  · have hinit := brInit_eq_ok.2 ⟨w0, w1, hread0, hread1, rfl⟩
    refine ⟨_, hinit, toNat_two_words w0 w1, rfl, rfl, topBits_two_words w0 w1, rfl, fun hphase => ?_⟩
    rw [engineStep_of_init hphase, initStep, hinit, except_ok_bind, conclude_ok]
  · have hinit := brInit_eq_error.2 ⟨hmissing, rfl⟩
    refine ⟨hinit, fun hphase => ?_⟩
    rw [engineStep_of_init hphase, initStep, hinit, except_error_bind, conclude_error]

/-! ### BR_SKIP -/

theorem memRead2_shiftWindow (n : Nat) (s : State) : memRead2 (shiftWindow n s) = memRead2 s :=
  memRead2_congr (memRead1_congr rfl rfl rfl rfl)

/-- A skip fails exactly where `canSkip` says that it cannot be done. -/
theorem brSkip_eq_error {n : Nat} {s : State} {e : ErrClass} :
    brSkip n s = .error e ↔ canSkip n s = false ∧ e = .bitUnderflow := by
  have hrefill : brRefill (shiftWindow n s) = .error e ↔
      memRead2 s s.cursor.toNat = none ∧ e = .bitUnderflow := by
    rw [brRefill_eq_error, memRead2_shiftWindow, shiftWindow_cursor]
  by_cases hle : (n : Int) ≤ availNum s
  · by_cases hlow : availNum s - n < 16
    · simp [brSkip, canSkip, availNum_shiftWindow hle, hle, not_lt.2 hle, hlow, hrefill]
    · simp [brSkip, canSkip, availNum_shiftWindow hle, hle, not_lt.2 hle, hlow]
  · simp [brSkip, canSkip, hle, show availNum s < n by omega, eq_comm (a := e)]

theorem pendingBits_shiftWindow {n : Nat} {s : State} (hle : (n : Int) ≤ availNum s)
    (hhigh : availNum s ≤ 32) : pendingBits (shiftWindow n s) = (pendingBits s).drop n := by
  have hsplit : (availNum s).toNat = n + (availNum s - n).toNat := by omega
  rw [pendingBits, availNum_shiftWindow hle, shiftWindow_mask, topBits_shiftLeft _ (by omega), ← hsplit,
    pendingBits]

/-- A readable word at CURSOR follows the pending bits. -/
theorem brRefill_of_word {s : State} {w : U16} (hread : memRead2 s s.cursor.toNat = some w)
    (h0 : 0 ≤ availNum s) (h16 : availNum s ≤ 16)
    (hzero : ∀ i : Nat, i < (32 - availNum s).toNat → s.mask.getLsbD i = false) :
    ∃ t, brRefill s = .ok t ∧ pendingBits t = pendingBits s ++ wordBits w ∧
      availNum t = availNum s + 16 ∧ t.cursor.toNat = s.cursor.toNat + 2 := by
  have havail : (BitVec.ofInt 32 (availNum s + 16)).toInt = availNum s + 16 :=
    toInt_ofInt_32 (by omega) (by omega)
  have hbits : topBits (s.mask ||| (w.setWidth 32 <<< (16 - availNum s).toNat))
      (BitVec.ofInt 32 (availNum s + 16)).toInt.toNat = pendingBits s ++ wordBits w := by
    rw [havail, show (availNum s + 16).toNat = (availNum s).toNat + 16 by omega,
      show (16 - availNum s).toNat = 16 - (availNum s).toNat by omega,
      topBits_or_word w (by omega) fun i hi => hzero i (by omega), pendingBits]
  have hcursor : (s.cursor + 2).toNat = s.cursor.toNat + 2 := by
    have hin := memRead2_in_region hread
    have hlength := s.inputLength.isLt
    rw [BitVec.toNat_add]; simp; omega
  exact ⟨_, brRefill_eq_ok.2 ⟨w, hread, rfl⟩, hbits, havail, hcursor⟩

/-- Settles O25: the shift drops the bits, and the word of the refill lands just below what is left. -/
theorem skipDropsBitsAndRefills : Obligations.SkipDropsBitsAndRefills := by
  intro n s hwindow hn
  have havailLow := hwindow.availLow
  have havailHigh := hwindow.availHigh
  have hle : (n : Int) ≤ availNum s := by omega
  have havail := availNum_shiftWindow hle
  have hpending := pendingBits_shiftWindow hle havailHigh
  refine ⟨fun hfull => ?_, fun hlow w hread => ?_, fun hlow hmissing => ?_⟩
  · exact ⟨_, brSkip_eq_ok.2 ⟨hle, .inl ⟨hfull, rfl⟩⟩, hpending, havail, rfl⟩
  · rw [← memRead2_shiftWindow n] at hread
    obtain ⟨t, hrefill, hbits, hnum, hcursor⟩ := brRefill_of_word (s := shiftWindow n s) hread
      (by omega) (by omega) fun i hi => shiftWindow_zeroBelow hwindow (havail ▸ hi)
    have hskip := brSkip_eq_ok.2 ⟨hle, .inr ⟨hlow, hrefill⟩⟩
    exact ⟨t, hskip, by rw [hbits, hpending], by rw [hnum, havail], hcursor, brSkip_frame hskip⟩
  · exact brSkip_eq_error.2 ⟨by simp [canSkip, hlow, hmissing], rfl⟩

/-- Settles O26: BR_INIT fills the window, and a skip keeps it shifted or refilled. -/
theorem skipKeepsTheWindowInvariant : Obligations.SkipKeepsTheWindowInvariant :=
  ⟨fun _ _ h => brInit_windowOk h, fun _ _ _ h hn ht => brSkip_windowOk h hn ht⟩

end Sys2Proof.Machine
end

section
/-! PROOFS. The code-length table and the canonical symbol list (41 R130 to R132). -/
namespace Sys2Proof.Machine

/-! ### The table (30 R81) -/

theorem codeLength_tableLengths (s : State) (j : Fin 512) :
    codeLength (tableLengths s) j = tableNibble (regionByte s (j.val / 2)) j.val := by
  simp [codeLength, tableLengths]

theorem tableNibble_even (b : Byte) (k : Nat) : (tableNibble b (2 * k)).toNat = b.toNat % 16 := by
  simp [tableNibble]

theorem tableNibble_odd (b : Byte) (k : Nat) : (tableNibble b (2 * k + 1)).toNat = b.toNat / 16 := by
  have := b.isLt
  rw [tableNibble, if_neg (by omega), BitVec.extractLsb'_toNat, Nat.shiftRight_eq_div_pow]
  omega

/-- Settles O30: symbols `2k` and `2k + 1` lie in byte `k`, in its low and in its high nibble. -/
theorem expandSplitsTheTableBytes : Obligations.ExpandSplitsTheTableBytes := by
  intro s htable
  refine ⟨_, htExpand_eq_ok.2 ⟨htable, rfl⟩, rfl, fun k hk => ⟨?_, ?_⟩⟩
  · rw [codeLength_tableLengths, tableNibble_even, Nat.mul_div_cancel_left k two_pos]
  · rw [codeLength_tableLengths, tableNibble_odd, show (2 * k + 1) / 2 = k by omega]

/-! ### The canonical symbol list (41 R131) -/

theorem CslEntry.before_iff {a b : CslEntry} : a.before b ↔
    a.len.toNat < b.len.toNat ∨ (a.len.toNat = b.len.toNat ∧ a.sym.toNat ≤ b.sym.toNat) := by
  rw [CslEntry.before, BitVec.lt_def, BitVec.le_def, BitVec.toNat_inj]

theorem CslEntry.before_total (a b : CslEntry) : a.before b ∨ b.before a := by
  rw [before_iff, before_iff]; omega

theorem CslEntry.before_trans {a b c : CslEntry} (hab : a.before b) (hbc : b.before c) : a.before c := by
  rw [before_iff] at *; omega

theorem canonicalList_pairwise_before (cl : Vector Nibble 512) :
    (canonicalList cl).Pairwise CslEntry.before := by
  have : Std.Total CslEntry.before := ⟨CslEntry.before_total⟩
  have : IsTrans CslEntry CslEntry.before := ⟨fun _ _ _ => CslEntry.before_trans⟩
  rw [canonicalList]
  exact List.pairwise_insertionSort _ _

theorem canonicalList_perm (cl : Vector Nibble 512) : (canonicalList cl).Perm (usedEntries cl) := by
  rw [canonicalList]
  exact List.perm_insertionSort _ _

/-- The used symbols stand in symbol order, so no two of them are equal. -/
theorem usedEntries_pairwise_sym_ne (cl : Vector Nibble 512) :
    (usedEntries cl).Pairwise fun a b => a.sym ≠ b.sym := by
  refine List.Pairwise.filter _ (List.pairwise_map.2 (List.pairwise_iff_getElem.2 fun i j hi hj hij h => ?_))
  simp only [List.length_zipIdx, Vector.length_toList] at hi hj
  have hval := congrArg BitVec.toNat h
  simp only [List.getElem_zipIdx, BitVec.toNat_ofNat] at hval
  omega

theorem canonicalList_pairwise_sym_ne (cl : Vector Nibble 512) :
    (canonicalList cl).Pairwise fun a b => a.sym ≠ b.sym :=
  ((canonicalList_perm cl).pairwise_iff fun h => Ne.symm h).2 (usedEntries_pairwise_sym_ne cl)

/-- Settles O31: the sort orders by `before`, and different entries have different symbols. -/
theorem sortListsTheUsedSymbolsInOrder : Obligations.SortListsTheUsedSymbolsInOrder := by
  refine fun s => ⟨?_, fun e => mem_canonicalList⟩
  rw [htSort_csl]
  refine (canonicalList_pairwise_before s.cl).imp₂ (fun a b hbefore hne => ?_)
    (canonicalList_pairwise_sym_ne s.cl)
  exact hbefore.imp_right fun ⟨hlen, hsym⟩ => ⟨hlen, BitVec.lt_of_le_ne hsym hne⟩

theorem canonicalList_eq_nil_iff {cl : Vector Nibble 512} :
    canonicalList cl = [] ↔ ∀ j : Fin 512, codeLength cl j = 0 := by
  rw [List.eq_nil_iff_forall_not_mem]
  constructor
  · intro h j
    by_contra hj
    exact h _ (mem_canonicalList.2 ⟨j, hj, rfl⟩)
  · intro h e he
    obtain ⟨j, hj, -⟩ := mem_canonicalList.1 he
    exact hj (h j)

/-! ### BUILD over a readable table -/

theorem engineStep_of_build {s : State} (h : s.phase = .build) : engineStep s = buildStep s := by
  simp [engineStep, h]

/-- The state in which HT_ASSIGN starts: the table's lengths and its list. -/
def sortedTable (s : State) : State := htSort { s with cl := tableLengths s }

theorem builder_of_readable {s : State} (h : tableReadable s = true) :
    builder s = if canonicalList (tableLengths s) = [] then .error .invalidHuffmanTree
      else htAssign (sortedTable s) := by
  rw [builder, htExpand_eq_ok.2 ⟨h, rfl⟩, except_ok_bind]
  simp only [htSort_csl, List.length_eq_zero_iff, sortedTable]

/-- Settles O32: no symbol is used, so the list is empty. -/
theorem tableOfZeroLengthsFails : Obligations.TableOfZeroLengthsFails := by
  intro s hphase htable hzero
  have hlengths : ∀ j : Fin 512, codeLength (tableLengths s) j = 0 := fun j => by
    rw [codeLength_tableLengths, hzero _ (by omega)]
    simp [tableNibble]
  rw [engineStep_of_build hphase, buildStep, builder_of_readable htable,
    if_pos (canonicalList_eq_nil_iff.2 hlengths), except_error_bind, conclude_error]

end Sys2Proof.Machine
end

section
/-! PROOFS. HT_INSERT on an arena that is a tree over the slots taken: the slots it takes, and the path it
leaves (41 R134 to R138). -/
namespace Sys2Proof.Machine

/-! ### Following a path -/

@[simp] theorem follow_nil (a : Vector Node 1024) (i : Slot) : follow a i [] = some i := rfl

theorem follow_cons (a : Vector Node 1024) (i : Slot) (b : Bool) (p : List Bool) :
    follow a i (b :: p) = ((slotAt a i).child b).bind fun c => follow a c p := by
  cases h : (slotAt a i).child b <;> simp [follow, h]

theorem follow_append (a : Vector Node 1024) (i : Slot) (p q : List Bool) :
    follow a i (p ++ q) = (follow a i p).bind fun j => follow a j q := by
  induction p generalizing i with
  | nil => rfl
  | cons b p ih => simp [follow_cons, ih, Option.bind_assoc]

theorem follow_concat (a : Vector Node 1024) (i : Slot) (p : List Bool) (b : Bool) :
    follow a i (p ++ [b]) = (follow a i p).bind fun j => (slotAt a j).child b := by
  simp [follow_append, follow_cons]

theorem pathBits_eq_concat (code : U32) {bits : Nat} (h : bits ≠ 0) :
    pathBits code bits = (pathBits code bits).dropLast ++ [code.getLsbD 0] := by
  obtain ⟨n, rfl⟩ := Nat.exists_eq_succ_of_ne_zero h
  simp [pathBits, List.range_succ]

theorem length_dropLast_pathBits (code : U32) (bits : Nat) :
    (pathBits code bits).dropLast.length = bits - 1 := by simp

theorem newNodes_of_no_child {a : Vector Node 1024} {i : Slot} (h : ∀ b, (slotAt a i).child b = none)
    (p : List Bool) : newNodes a i p = p.length := by
  cases p with
  | nil => rfl
  | cons b p => exact newNodes_cons_none (h b)

/-- Which children a walk creates depends on the children alone. -/
theorem newNodes_congr {a a' : Vector Node 1024}
    (h : ∀ i b, (slotAt a' i).child b = (slotAt a i).child b) (i : Slot) (p : List Bool) :
    newNodes a' i p = newNodes a i p := by
  induction p generalizing i with
  | nil => rfl
  | cons b p ih =>
    cases hc : (slotAt a i).child b with
    | none => rw [newNodes_cons_none hc, newNodes_cons_none ((h i b).trans hc)]
    | some c => rw [newNodes_cons_some hc, newNodes_cons_some ((h i b).trans hc), ih]

variable {depth : Slot → Nat} {a : Vector Node 1024} {n : Nat}

theorem Layered.follow_taken (h : Layered depth a n) {i j : Slot} {p : List Bool} (hi : i.val < n)
    (hp : follow a i p = some j) : j.val < n ∧ depth j = depth i + p.length := by
  induction p generalizing i with
  | nil => cases hp; exact ⟨hi, rfl⟩
  | cons b p ih =>
    rw [follow_cons, Option.bind_eq_some_iff] at hp
    obtain ⟨c, hc, hp⟩ := hp
    obtain ⟨hcdepth, -, hctaken⟩ := h.child i b c hc
    obtain ⟨hj, hjdepth⟩ := ih hctaken hp
    exact ⟨hj, by rw [List.length_cons]; omega⟩

/-- A new child below the end of a path does not move the path. -/
theorem Layered.follow_link (h : Layered depth a n) {i j : Slot} {p : List Bool} (hi : i.val < n)
    (hp : follow a i p = some j) (b : Bool) (c : Slot) :
    follow (setSlot a j ((slotAt a j).setChild b c)) i p = some j := by
  induction p generalizing i with
  | nil => exact hp
  | cons b' p ih =>
    have hdepth := (h.follow_taken hi hp).2
    have hij : i ≠ j := fun e => by rw [e, List.length_cons] at hdepth; omega
    rw [follow_cons, Option.bind_eq_some_iff] at hp ⊢
    obtain ⟨k, hk, hp⟩ := hp
    refine ⟨k, ?_, ih (h.child i b' k hk).2.2 hp⟩
    rw [child_setSlot_setChild, if_neg fun e => hij e.1, hk]

/-! ### What one slot more makes of the arena -/

/-- What a walk finds in a slot beside its children: a leaf's symbol, or nothing. -/
def Node.label (m : Node) : Option U16 := if m.leaf then some m.sym else none

theorem Node.label_eq_some {m : Node} {w : U16} : m.label = some w ↔ m.leaf = true ∧ m.sym = w := by
  cases h : m.leaf <;> simp [Node.label, h]

theorem label_setSlot_setChild (a : Vector Node 1024) (i c k : Slot) (b : Bool) :
    (slotAt (setSlot a i ((slotAt a i).setChild b c)) k).label = (slotAt a k).label := by
  rw [Node.label, leaf_setSlot_setChild, sym_setSlot_setChild, Node.label]

/-- `v` is `s` with a new internal node in slot `c`, as `child[b]` of slot `i`. -/
structure AddsNode (i : Slot) (b : Bool) (c : Slot) (s v : State) : Prop where
  slot : c.val = s.nextFree.val
  nextFree : v.nextFree.val = s.nextFree.val + 1
  child : ∀ k b', (slotAt v.arena k).child b' =
    if k = i ∧ b' = b then some c else (slotAt s.arena k).child b'
  label : ∀ k, (slotAt v.arena k).label = if k = c then none else (slotAt s.arena k).label

/-- `u` is `s` with a leaf for `sym` in slot `l`, which nothing leads to yet. -/
structure AddsLeaf (sym : U16) (l : Slot) (s u : State) : Prop where
  slot : l.val = s.nextFree.val
  nextFree : u.nextFree.val = s.nextFree.val + 1
  child : ∀ k b, (slotAt u.arena k).child b = (slotAt s.arena k).child b
  label : ∀ k, (slotAt u.arena k).label = if k = l then some sym else (slotAt s.arena k).label

theorem nextFree_le (s : State) : s.nextFree.val ≤ 1024 := Nat.le_of_lt_succ s.nextFree.isLt

/-- Either the next slot is taken, or none is left. -/
theorem takeSlot_cases (s : State) :
    (∃ c u, takeSlot s = .ok (c, u)) ∨
    (takeSlot s = .error .invalidHuffmanTree ∧ s.nextFree.val = 1024) := by
  by_cases h : s.nextFree.val < 1024
  · exact .inl ⟨⟨s.nextFree.val, h⟩, _, takeSlot_eq_ok.2 ⟨rfl, h, rfl⟩⟩
  · have hfull : s.nextFree.val = 1024 := by omega
    exact .inr ⟨takeSlot_eq_error.2 ⟨hfull, rfl⟩, hfull⟩

theorem addsNode_of_takeSlot {s u : State} {c : Slot} (htake : takeSlot s = .ok (c, u)) (i : Slot)
    (b : Bool) : AddsNode i b c s ((u.setChild i b c).setLeaf c false) := by
  obtain ⟨hc, hroom, rfl⟩ := takeSlot_eq_ok.1 htake
  refine ⟨hc.symm, rfl, fun k b' => ?_, fun k => ?_⟩
  · exact (child_setSlot_label _ c k _ false b').trans (child_setSlot_setChild ..)
  · rw [setLeaf_arena, slotAt_setSlot]
    by_cases hk : k = c
    · rw [if_pos hk.symm, if_pos hk]; rfl
    · rw [if_neg fun e => hk e.symm, if_neg hk]
      exact label_setSlot_setChild ..

theorem addsLeaf_of_reserveLeaf {sym : U16} {l : Slot} {s u : State}
    (h : reserveLeaf sym s = .ok (l, u)) : AddsLeaf sym l s u := by
  obtain ⟨v, htake, rfl⟩ := reserveLeaf_eq_ok.1 h
  obtain ⟨hl, hroom, rfl⟩ := takeSlot_eq_ok.1 htake
  refine ⟨hl.symm, rfl, fun k b => ?_, fun k => ?_⟩
  · exact (child_setSlot_label _ l k _ true b).trans (child_setSlot_label _ l k sym _ b)
  · rw [setLeaf_arena, setSym_arena]
    by_cases hk : k = l
    · rw [hk, slotAt_setSlot_self, slotAt_setSlot_self, if_pos rfl]; rfl
    · rw [slotAt_setSlot_other _ _ hk, slotAt_setSlot_other _ _ hk, if_neg hk]

theorem reserveLeaf_cases (sym : U16) (s : State) :
    (∃ l u, reserveLeaf sym s = .ok (l, u)) ∨
    (reserveLeaf sym s = .error .invalidHuffmanTree ∧ s.nextFree.val = 1024) := by
  obtain ⟨c, u, htake⟩ | ⟨htake, hfull⟩ := takeSlot_cases s
  · exact .inl ⟨c, _, reserveLeaf_eq_ok.2 ⟨u, htake, rfl⟩⟩
  · exact .inr ⟨by rw [reserveLeaf, htake, except_error_bind], hfull⟩

theorem Layered.congr {a' : Vector Node 1024} {n' : Nat} (h : Layered depth a n) (hn : n ≤ n')
    (hchild : ∀ i b, (slotAt a' i).child b = (slotAt a i).child b) : Layered depth a' n' where
  taken := h.taken.trans_le hn
  rootDepth := h.rootDepth
  child i b c hc := by
    obtain ⟨hdepth, hc0, hcn⟩ := h.child i b c (hchild i b ▸ hc)
    exact ⟨hdepth, hc0, hcn.trans_le hn⟩
  free i b hi := (hchild i b).trans (h.free i b (hn.trans hi))

/-- A new node is one level below its parent. -/
theorem AddsNode.layered {i c : Slot} {b : Bool} {s v : State} (hv : AddsNode i b c s v)
    (h : Layered depth s.arena s.nextFree.val) (hi : i.val < s.nextFree.val) :
    Layered (Function.update depth c (depth i + 1)) v.arena v.nextFree.val := by
  have hslot := hv.slot
  have hic : i ≠ c := Fin.ne_of_val_ne (by omega)
  have hc0 : c ≠ 0 := Fin.ne_of_val_ne (by have := h.taken; simp; omega)
  refine ((h.take hslot (depth i + 1)).link (i := i) (c := c) b (by omega) (by omega) hc0 ?_).congr
    hv.nextFree.ge fun k b' => ?_
  · rw [Function.update_self, Function.update_of_ne hic]
  · rw [hv.child, child_setSlot_setChild]

theorem AddsNode.no_child {i c : Slot} {b : Bool} {s v : State} (hv : AddsNode i b c s v)
    (h : Layered depth s.arena s.nextFree.val) (hi : i.val < s.nextFree.val) (b' : Bool) :
    (slotAt v.arena c).child b' = none := by
  have hslot := hv.slot
  rw [hv.child, if_neg fun e => by rw [e.1] at hslot; omega]
  exact h.free c b' hslot.ge

/-- A reserved leaf may be given any depth. -/
theorem AddsLeaf.layered {sym : U16} {l : Slot} {s u : State} (hu : AddsLeaf sym l s u)
    (h : Layered depth s.arena s.nextFree.val) (d : Nat) :
    Layered (Function.update depth l d) u.arena u.nextFree.val :=
  (h.take hu.slot d).congr hu.nextFree.ge hu.child

/-! ### The slots an insertion takes (41 R137) -/

/-- The insertion walk takes as many slots as it creates nodes, or fails where they do not fit. -/
theorem walkPath_fits {p : List Bool} {i : Slot} {s : State}
    (h : Layered depth s.arena s.nextFree.val) (hi : i.val < s.nextFree.val) :
    (∃ j t, walkPath p i s = .ok (j, t) ∧
      t.nextFree.val = s.nextFree.val + newNodes s.arena i p) ∨
    (walkPath p i s = .error .invalidHuffmanTree ∧ 1024 < s.nextFree.val + newNodes s.arena i p) := by
  induction p generalizing i s depth with
  | nil => exact .inl ⟨i, s, rfl, rfl⟩
  | cons b p ih =>
    cases hc : (slotAt s.arena i).child b with
    | some c =>
      rw [walkPath_cons_some hc, newNodes_cons_some hc]
      exact ih h (h.child i b c hc).2.2
    | none =>
      rw [walkPath_cons_none hc, newNodes_cons_none hc]
      obtain ⟨c, u, htake⟩ | ⟨htake, hfull⟩ := takeSlot_cases s
      · have hv := addsNode_of_takeSlot htake i b
        have hnext := hv.nextFree
        have hnew := newNodes_of_no_child (hv.no_child h hi) p
        rw [htake, except_ok_bind]
        obtain ⟨j, t, hwalk, ht⟩ | ⟨hwalk, ht⟩ := ih (hv.layered h hi) (by rw [hnext, hv.slot]; omega)
        · exact .inl ⟨j, t, hwalk, by omega⟩
        · exact .inr ⟨hwalk, by omega⟩
      · rw [htake, except_error_bind]
        exact .inr ⟨rfl, by omega⟩

/-- From any arena, as many free slots as the path has steps are enough. -/
theorem walkPath_of_room {p : List Bool} {i : Slot} {s : State}
    (h : s.nextFree.val + p.length ≤ 1024) : ∃ j t, walkPath p i s = .ok (j, t) := by
  induction p generalizing i s with
  | nil => exact ⟨i, s, rfl⟩
  | cons b p ih =>
    rw [List.length_cons] at h
    cases hc : (slotAt s.arena i).child b with
    | some c => rw [walkPath_cons_some hc]; exact ih (by omega)
    | none =>
      rw [walkPath_cons_none hc]
      obtain ⟨c, u, htake⟩ | ⟨-, hfull⟩ := takeSlot_cases s
      · rw [htake, except_ok_bind]
        exact ih (by rw [(addsNode_of_takeSlot htake i b).nextFree]; omega)
      · omega

theorem htInsert_of_reserved {sym : U16} {code : U32} {bits : Nat} {s u : State} {l : Slot}
    (hbits : bits ≠ 0) (hreserve : reserveLeaf sym s = .ok (l, u)) :
    htInsert sym code bits s = walkPath (pathBits code bits).dropLast 0 u >>= fun r =>
      .ok (r.2.setChild r.1 (code.getLsbD 0) l) := by
  rw [htInsert, hreserve, except_ok_bind]
  exact if_neg hbits

/-- The slots of an insertion are its leaf and the nodes its walk creates. -/
theorem htInsert_fits {sym : U16} {code : U32} {bits : Nat} {s : State} (hbits : bits ≠ 0)
    (h : Layered depth s.arena s.nextFree.val) :
    (∃ t, htInsert sym code bits s = .ok t ∧
      t.nextFree.val = s.nextFree.val + 1 + newNodes s.arena 0 (pathBits code bits).dropLast) ∨
    (htInsert sym code bits s = .error .invalidHuffmanTree ∧
      1024 < s.nextFree.val + 1 + newNodes s.arena 0 (pathBits code bits).dropLast) := by
  obtain ⟨l, u, hreserve⟩ | ⟨hreserve, hfull⟩ := reserveLeaf_cases sym s
  · have hleaf := addsLeaf_of_reserveLeaf hreserve
    have hu := hleaf.layered h bits
    rw [htInsert_of_reserved hbits hreserve, ← newNodes_congr hleaf.child, ← hleaf.nextFree]
    obtain ⟨j, t, hwalk, ht⟩ | ⟨hwalk, ht⟩ :=
      walkPath_fits (p := (pathBits code bits).dropLast) (i := 0) hu hu.taken
    · exact .inl ⟨t.setChild j (code.getLsbD 0) l, by rw [hwalk, except_ok_bind], ht⟩
    · exact .inr ⟨by rw [hwalk, except_error_bind], ht⟩
  · exact .inr ⟨by rw [htInsert, hreserve, except_error_bind], by omega⟩

theorem htInsert_of_room {sym : U16} {code : U32} {bits : Nat} {s : State} (hbits : 1 ≤ bits)
    (hroom : s.nextFree.val + bits ≤ 1024) : ∃ t, htInsert sym code bits s = .ok t := by
  obtain ⟨l, u, hreserve⟩ | ⟨-, hfull⟩ := reserveLeaf_cases sym s
  · have hnext := (addsLeaf_of_reserveLeaf hreserve).nextFree
    obtain ⟨j, t, hwalk⟩ := walkPath_of_room (p := (pathBits code bits).dropLast) (i := 0) (s := u)
      (by rw [length_dropLast_pathBits]; omega)
    exact ⟨_, by rw [htInsert_of_reserved (by omega) hreserve, hwalk, except_ok_bind]⟩
  · omega

theorem htInsert_error {sym : U16} {code : U32} {bits : Nat} {s : State} {e : ErrClass}
    (h : htInsert sym code bits s = .error e) : e = .invalidHuffmanTree := by
  obtain ⟨l, u, hreserve⟩ | ⟨hreserve, -⟩ := reserveLeaf_cases sym s
  · by_cases hbits : bits = 0
    · rw [htInsert, hreserve, except_ok_bind, hbits] at h
      cases h; rfl
    · rw [htInsert_of_reserved hbits hreserve, except_bind_eq_error] at h
      obtain hwalk | ⟨r, -, h⟩ := h
      · exact walkPath_error hwalk
      · cases h
  · rw [htInsert, hreserve, except_error_bind] at h
    cases h; rfl

theorem htInsert_of_full_or_empty {sym : U16} {code : U32} {bits : Nat} {s : State}
    (h : s.nextFree.val = 1024 ∨ bits = 0) : htInsert sym code bits s = .error .invalidHuffmanTree := by
  cases hinsert : htInsert sym code bits s with
  | error e => rw [htInsert_error hinsert]
  | ok t =>
    obtain ⟨hbits, l, u, -, -, hreserve, -⟩ := htInsert_eq_ok.1 hinsert
    obtain ⟨v, htake, -⟩ := reserveLeaf_eq_ok.1 hreserve
    obtain ⟨-, hroom, -⟩ := takeSlot_eq_ok.1 htake
    omega

/-- Settles O34: the walk's new slots are the missing part of its path, one by one. -/
theorem insertFailsOnlyWithoutASlot : Obligations.InsertFailsOnlyWithoutASlot := by
  refine fun sym code bits s => ⟨fun htree hbits => ?_, htInsert_of_room, htInsert_of_full_or_empty,
    fun e => htInsert_error⟩
  obtain ⟨depth, h⟩ := treeArena_iff.1 htree
  obtain ⟨t, hinsert, ht⟩ | ⟨hinsert, hfull⟩ := htInsert_fits (sym := sym) (code := code)
    (Nat.one_le_iff_ne_zero.1 hbits) h
  · exact ⟨fun _ => ⟨t, hinsert, ht⟩, fun hover => absurd (nextFree_le t) (by omega)⟩
  · exact ⟨fun hfit => absurd hfit (by omega), fun _ => hinsert⟩

/-! ### The path an insertion leaves (41 R134 to R136) -/

/-- The insertion walk: it follows the children there are and creates those that are missing. -/
inductive Walk : List Bool → Slot → State → Slot → State → Prop where
  | nil {i : Slot} {s : State} : Walk [] i s i s
  | enter {b : Bool} {p : List Bool} {i c j : Slot} {s t : State}
      (hchild : (slotAt s.arena i).child b = some c) (hrest : Walk p c s j t) : Walk (b :: p) i s j t
  | create {b : Bool} {p : List Bool} {i c j : Slot} {s v t : State}
      (hmissing : (slotAt s.arena i).child b = none) (hadd : AddsNode i b c s v)
      (hrest : Walk p c v j t) : Walk (b :: p) i s j t

theorem walkPath_walk {p : List Bool} {i j : Slot} {s t : State} (h : walkPath p i s = .ok (j, t)) :
    Walk p i s j t := by
  induction p generalizing i s with
  | nil => rw [walkPath_nil] at h; cases h; exact .nil
  | cons b p ih =>
    cases hc : (slotAt s.arena i).child b with
    | some c => exact .enter hc (ih (walkPath_cons_some hc ▸ h))
    | none =>
      rw [walkPath_cons_none hc, except_bind_eq_ok] at h
      obtain ⟨⟨c, u⟩, htake, h⟩ := h
      exact .create hc (addsNode_of_takeSlot htake i b) (ih h)

section
variable {p : List Bool} {i j : Slot} {s t : State}

theorem Walk.nextFree_le (h : Walk p i s j t) : s.nextFree.val ≤ t.nextFree.val := by
  induction h with
  | nil => exact le_rfl
  | enter _ _ ih => exact ih
  | create _ hadd _ ih => rw [hadd.nextFree] at ih; omega

theorem Walk.child_kept (h : Walk p i s j t) {k c : Slot} {b : Bool}
    (hc : (slotAt s.arena k).child b = some c) : (slotAt t.arena k).child b = some c := by
  induction h with
  | nil => exact hc
  | enter _ _ ih => exact ih hc
  | create hmissing hadd _ ih =>
    refine ih ?_
    rw [hadd.child, if_neg]
    · exact hc
    · rintro ⟨rfl, rfl⟩; rw [hmissing] at hc; cases hc

theorem Walk.label_kept (h : Walk p i s j t) {k : Slot} (hk : k.val < s.nextFree.val) :
    (slotAt t.arena k).label = (slotAt s.arena k).label := by
  induction h with
  | nil => rfl
  | enter _ _ ih => exact ih hk
  | create _ hadd _ ih =>
    have hslot := hadd.slot
    rw [ih (by rw [hadd.nextFree]; omega), hadd.label, if_neg (Fin.ne_of_val_ne (by omega))]

/-- After the walk its path leads to the slot it ended at. -/
theorem Walk.follow_eq (h : Walk p i s j t) : follow t.arena i p = some j := by
  induction h with
  | nil => rfl
  | enter hchild hrest ih => rw [follow_cons, hrest.child_kept hchild]; exact ih
  | @create b _ i c _ _ v _ _ hadd hrest ih =>
    have hnew : (slotAt v.arena i).child b = some c := by rw [hadd.child, if_pos ⟨rfl, rfl⟩]
    rw [follow_cons, hrest.child_kept hnew]; exact ih

theorem Walk.layered (h : Walk p i s j t) (hs : Layered depth s.arena s.nextFree.val)
    (hi : i.val < s.nextFree.val) :
    ∃ depth', Layered depth' t.arena t.nextFree.val ∧
      ∀ k : Slot, k.val < s.nextFree.val → depth' k = depth k := by
  induction h generalizing depth with
  | nil => exact ⟨depth, hs, fun _ _ => rfl⟩
  | @enter b _ i c _ _ _ hchild _ ih => exact ih hs (hs.child i b c hchild).2.2
  | create _ hadd _ ih =>
    have hslot := hadd.slot
    have hnext := hadd.nextFree
    obtain ⟨depth', ht, hkept⟩ := ih (hadd.layered hs hi) (by omega)
    refine ⟨depth', ht, fun k hk => (hkept k (by omega)).trans ?_⟩
    exact Function.update_of_ne (Fin.ne_of_val_ne (by omega)) ..

end

/-- An insertion that succeeds, in its three parts. -/
theorem htInsert_parts {sym : U16} {code : U32} {bits : Nat} {s t : State}
    (h : htInsert sym code bits s = .ok t) :
    pathBits code bits = (pathBits code bits).dropLast ++ [code.getLsbD 0] ∧
    ∃ l u j v, AddsLeaf sym l s u ∧ Walk (pathBits code bits).dropLast 0 u j v ∧
      t = v.setChild j (code.getLsbD 0) l := by
  obtain ⟨hbits, l, u, j, v, hreserve, hwalk, rfl⟩ := htInsert_eq_ok.1 h
  exact ⟨pathBits_eq_concat code hbits,
    l, u, j, v, addsLeaf_of_reserveLeaf hreserve, walkPath_walk hwalk, rfl⟩

/-- Attaching the leaf one level below the end of the walk keeps a tree. -/
theorem htInsert_layered {sym : U16} {code : U32} {bits : Nat} {s t : State}
    (h : htInsert sym code bits s = .ok t) (hs : Layered depth s.arena s.nextFree.val) :
    ∃ depth', Layered depth' t.arena t.nextFree.val := by
  obtain ⟨-, l, u, j, v, hleaf, hwalk, rfl⟩ := htInsert_parts h
  have hu := hleaf.layered hs ((pathBits code bits).dropLast.length + 1)
  have hl : l.val < u.nextFree.val := by rw [hleaf.nextFree, hleaf.slot]; omega
  have hl0 : l ≠ 0 := Fin.ne_of_val_ne (by rw [hleaf.slot]; exact hs.taken.ne')
  obtain ⟨depth', hv, hkept⟩ := hwalk.layered hu hu.taken
  obtain ⟨hj, hjdepth⟩ := hv.follow_taken hv.taken hwalk.follow_eq
  refine ⟨depth', hv.link _ hj (hl.trans_le hwalk.nextFree_le) hl0 ?_⟩
  rw [hkept l hl, Function.update_self, hjdepth, hv.rootDepth, Nat.zero_add]

/-- Settles O33: the walk leads to the slot above the leaf, and the attach step moves nothing above it. -/
theorem insertedPathLeadsToItsLeaf : Obligations.InsertedPathLeadsToItsLeaf := by
  intro sym code bits s t htree _ _ hinsert
  obtain ⟨depth, hs⟩ := treeArena_iff.1 htree
  refine ⟨treeArena_iff.2 (htInsert_layered hinsert hs), ?_⟩
  obtain ⟨hpath, l, u, j, v, hleaf, hwalk, rfl⟩ := htInsert_parts hinsert
  have hu := hleaf.layered hs 0
  have hl : l.val < u.nextFree.val := by rw [hleaf.nextFree, hleaf.slot]; omega
  obtain ⟨depth', hv, -⟩ := hwalk.layered hu hu.taken
  refine ⟨l, ?_, Node.label_eq_some.1 ?_⟩
  · rw [hpath, follow_concat, setChild_arena, hv.follow_link hv.taken hwalk.follow_eq, Option.bind_some,
      child_setSlot_setChild, if_pos ⟨rfl, rfl⟩]
  · rw [setChild_arena, label_setSlot_setChild, hwalk.label_kept hl, hleaf.label, if_pos rfl]

end Sys2Proof.Machine
end

section
/-! PROOFS. The trie as a map from paths, and what the builder makes of it (41 R133 to R136). -/
namespace Sys2Proof.Machine

/-- What a path leads to: nothing, an internal node, or a leaf with its symbol. -/
def entryAt (a : Vector Node 1024) (i : Slot) (p : List Bool) : Option (Option U16) :=
  (follow a i p).map fun j => (slotAt a j).label

theorem isSome_entryAt (a : Vector Node 1024) (i : Slot) (p : List Bool) :
    (entryAt a i p).isSome = (follow a i p).isSome := Option.isSome_map ..

theorem entryAt_cons {a : Vector Node 1024} {i c : Slot} {b : Bool}
    (h : (slotAt a i).child b = some c) (p : List Bool) : entryAt a i (b :: p) = entryAt a c p := by
  rw [entryAt, follow_cons, h, Option.bind_some, entryAt]

/-- Where a path leads nowhere, nor does a longer one. -/
theorem entryAt_append_of_none {a : Vector Node 1024} {i : Slot} {p : List Bool}
    (h : follow a i p = none) (q : List Bool) : entryAt a i (p ++ q) = none := by
  rw [entryAt, follow_append, h]; rfl

theorem isSome_entryAt_of_prefix {a : Vector Node 1024} {i j : Slot} {p q : List Bool} (hqp : q <+: p)
    (h : follow a i p = some j) : (entryAt a i q).isSome := by
  obtain ⟨r, rfl⟩ := hqp
  rw [follow_append, Option.bind_eq_some_iff] at h
  obtain ⟨k, hk, -⟩ := h
  rw [isSome_entryAt, hk]; rfl

/-! ### Three changes to a map from paths -/

section
variable {α : Type}

/-- The end of `p` is replaced, with all below it. -/
def graft (f : List Bool → Option α) (p : List Bool) (v : α) : List Bool → Option α := fun q =>
  if p <+: q then (if q = p then some v else none) else f q

theorem graft_self (f : List Bool → Option α) (p : List Bool) (v : α) : graft f p v p = some v := by
  simp [graft]

theorem graft_of_not_prefix {f : List Bool → Option α} {p q : List Bool} {v : α} (h : ¬ p <+: q) :
    graft f p v q = f q := if_neg h

theorem graft_of_longer {f : List Bool → Option α} {p q : List Bool} {v : α} (h : p <+: q)
    (hne : q ≠ p) : graft f p v q = none := by rw [graft, if_pos h, if_neg hne]

theorem graft_eq_some {f : List Bool → Option α} {p q : List Bool} {v x : α}
    (h : graft f p v q = some x) : (q = p ∧ x = v) ∨ (¬ p <+: q ∧ f q = some x) := by
  unfold graft at h
  split at h
  · split at h
    · rename_i hq; cases h; exact .inl ⟨hq, rfl⟩
    · cases h
  · rename_i hq; exact .inr ⟨hq, h⟩

end

/-- Internal nodes fill the path `p` where it leads nowhere (41 R135). -/
def filled (f : List Bool → Option (Option U16)) (p : List Bool) : List Bool → Option (Option U16) :=
  fun q => (f q).or (if q <+: p then some none else none)

/-- An insertion: the walk along the path but for its last bit, and the attach step (41 R135, R136). -/
def inserted (f : List Bool → Option (Option U16)) (p : List Bool) (w : U16) :
    List Bool → Option (Option U16) := graft (filled f p.dropLast) p (some w)

theorem filled_of_isSome {f : List Bool → Option (Option U16)} {p : List Bool}
    (h : ∀ q, q <+: p → (f q).isSome) : filled f p = f := by
  funext q
  unfold filled
  cases hq : f q with
  | some e => rfl
  | none =>
    rw [if_neg fun hp => by have := h q hp; rw [hq] at this; cases this]; rfl

/-- The first node a walk creates is one of those that fill its path. -/
theorem filled_graft {f : List Bool → Option (Option U16)} {p : List Bool}
    (h : ∀ q, f (p ++ q) = none) (r : List Bool) : filled (graft f p none) (p ++ r) = filled f (p ++ r) := by
  funext q
  unfold filled
  by_cases hq : p <+: q
  · obtain ⟨q, rfl⟩ := hq
    rw [h q]
    by_cases hnil : q = []
    · simp [hnil, graft_self]
    · rw [graft_of_longer (List.prefix_append ..) (by simpa using hnil)]
  · rw [graft_of_not_prefix hq]

/-! ### Arenas in which one path leads to a slot -/

/-- A slot the root leads to is led to by one path. -/
def UniquePaths (a : Vector Node 1024) : Prop :=
  ∀ p q i, follow a 0 p = some i → follow a 0 q = some i → p = q

/-- A slot the root does not lead to, with no child. -/
structure Spare (a : Vector Node 1024) (c : Slot) : Prop where
  unreached : ∀ p, follow a 0 p ≠ some c
  childless : ∀ b, (slotAt a c).child b = none

theorem Layered.spare {depth : Slot → Nat} {a : Vector Node 1024} {n : Nat} (h : Layered depth a n)
    {c : Slot} (hc : n ≤ c.val) : Spare a c where
  unreached p hp := by have := (h.follow_taken h.taken hp).1; omega
  childless b := h.free c b hc

section
variable {a a' : Vector Node 1024} {i c : Slot} {p : List Bool} {b : Bool}

/-- Linking a spare slot below the end of the path `p`. -/
theorem follow_of_linked (hunique : UniquePaths a) (hp : follow a 0 p = some i) (hc : Spare a c)
    (hlink : ∀ k b', (slotAt a' k).child b' = if k = i ∧ b' = b then some c else (slotAt a k).child b') :
    follow a' 0 = graft (follow a 0) (p ++ [b]) c := by
  have hci : c ≠ i := fun e => hc.unreached p (e ▸ hp)
  funext q
  induction q using List.reverseRecOn with
  | nil => rw [graft_of_not_prefix (by simp)]; rfl
  | append_singleton q b' ih =>
    rw [follow_concat, ih]
    by_cases hq : p ++ [b] <+: q
    · have hlen := hq.length_le
      rw [graft_of_longer (hq.trans (List.prefix_append ..)) fun e => by
        have := congrArg List.length e; simp at this hlen; omega]
      by_cases he : q = p ++ [b]
      · rw [he, graft_self, Option.bind_some, hlink, if_neg fun e => hci e.1, hc.childless]
      · rw [graft_of_longer hq he]; rfl
    · rw [graft_of_not_prefix hq]
      by_cases he : q ++ [b'] = p ++ [b]
      · obtain ⟨rfl, hb⟩ := List.append_inj' he rfl
        cases hb
        rw [hp, Option.bind_some, hlink, if_pos ⟨rfl, rfl⟩, graft_self]
      · rw [graft_of_not_prefix fun h => (List.prefix_concat_iff.1 h).elim (fun e => he e.symm) hq,
          follow_concat]
        cases hj : follow a 0 q with
        | none => rfl
        | some j =>
          rw [Option.bind_some, Option.bind_some, hlink, if_neg]
          rintro ⟨rfl, rfl⟩
          exact he (by rw [hunique q p j hj hp])

theorem uniquePaths_of_graft (hunique : UniquePaths a) (hfollow : follow a' 0 = graft (follow a 0) p c)
    (hc : Spare a c) : UniquePaths a' := by
  intro q r k hq hr
  rw [hfollow] at hq hr
  obtain ⟨hqp, hkc⟩ | ⟨-, hq⟩ := graft_eq_some hq <;> obtain ⟨hrp, hkc'⟩ | ⟨-, hr⟩ := graft_eq_some hr
  · rw [hqp, hrp]
  · exact absurd (hkc ▸ hr) (hc.unreached r)
  · exact absurd (hkc' ▸ hq) (hc.unreached q)
  · exact hunique q r k hq hr

theorem entryAt_of_graft (hfollow : follow a' 0 = graft (follow a 0) p c) (hc : Spare a c)
    (hlabel : ∀ k, k ≠ c → (slotAt a' k).label = (slotAt a k).label) :
    entryAt a' 0 = graft (entryAt a 0) p (slotAt a' c).label := by
  funext q
  rw [entryAt, hfollow]
  unfold graft
  split
  · split <;> rfl
  · cases hq : follow a 0 q with
    | none => rw [entryAt, hq]; rfl
    | some k =>
      rw [entryAt, hq, Option.map_some, Option.map_some, hlabel k fun e => hc.unreached q (e ▸ hq)]

/-- A spare slot stays spare while another is linked. -/
theorem Spare.of_linked {l : Slot} (hl : Spare a l) (hlc : l ≠ c) (hp : follow a 0 p = some i)
    (hlink : ∀ k b', (slotAt a' k).child b' = if k = i ∧ b' = b then some c else (slotAt a k).child b')
    (hfollow : follow a' 0 = graft (follow a 0) (p ++ [b]) c) : Spare a' l where
  unreached q hq := by
    rw [hfollow] at hq
    obtain ⟨-, e⟩ | ⟨-, hq⟩ := graft_eq_some hq
    · exact hlc e
    · exact hl.unreached q hq
  childless b' := by
    rw [hlink, if_neg, hl.childless]
    rintro ⟨rfl, -⟩
    exact hl.unreached p hp

theorem follow_congr (h : ∀ k b', (slotAt a' k).child b' = (slotAt a k).child b') (k : Slot)
    (q : List Bool) : follow a' k q = follow a k q := by
  induction q generalizing k with
  | nil => rfl
  | cons b' q ih => rw [follow_cons, follow_cons, h]; congr; funext c; exact ih c

end

/-! ### The insertion as a change of the map -/

/-- A tree over the slots taken, with one path to each slot in it. -/
structure PathTree (s : State) : Prop where
  layered : ∃ depth, Layered depth s.arena s.nextFree.val
  unique : UniquePaths s.arena

/-- The insertion walk from the end of the path `p₀` fills its path with internal nodes. -/
theorem Walk.entryAt_eq {depth : Slot → Nat} {p p₀ : List Bool} {i j l : Slot} {s t : State}
    (h : Walk p i s j t) (hs : Layered depth s.arena s.nextFree.val) (hunique : UniquePaths s.arena)
    (hi : follow s.arena 0 p₀ = some i) (hl : Spare s.arena l) (hltaken : l.val < s.nextFree.val) :
    UniquePaths t.arena ∧ Spare t.arena l ∧ entryAt t.arena 0 = filled (entryAt s.arena 0) (p₀ ++ p) := by
  induction h generalizing depth p₀ with
  | nil =>
    refine ⟨hunique, hl, (filled_of_isSome fun q hq => ?_).symm⟩
    exact isSome_entryAt_of_prefix (by simpa using hq) hi
  | @enter b p i c _ s _ hchild _ ih =>
    rw [show p₀ ++ b :: p = p₀ ++ [b] ++ p by simp]
    exact ih hs hunique (by rw [follow_concat, hi, Option.bind_some, hchild]) hl hltaken
  | @create b p i c _ s v _ hmissing hadd _ ih =>
    have hc := hs.spare hadd.slot.ge
    have hfollow := follow_of_linked hunique hi hc hadd.child
    have hentries := entryAt_of_graft hfollow hc fun k hk => by rw [hadd.label, if_neg hk]
    have hlc : l ≠ c := Fin.ne_of_val_ne (by rw [hadd.slot]; exact hltaken.ne)
    have hnone : follow s.arena 0 (p₀ ++ [b]) = none := by
      rw [follow_concat, hi, Option.bind_some, hmissing]
    obtain ⟨ht, hlt, hentriest⟩ := ih (hadd.layered hs (hs.follow_taken hs.taken hi).1)
      (uniquePaths_of_graft hunique hfollow hc) (p₀ := p₀ ++ [b]) (by rw [hfollow, graft_self])
      (hl.of_linked hlc hi hadd.child hfollow) (by rw [hadd.nextFree]; omega)
    refine ⟨ht, hlt, ?_⟩
    rw [hentriest, hentries, hadd.label, if_pos rfl, filled_graft (entryAt_append_of_none hnone),
      List.append_assoc, List.singleton_append]

/-- HT_INSERT on a tree: the map from paths changes as `inserted` says. -/
theorem htInsert_entryAt {sym : U16} {code : U32} {bits : Nat} {s t : State} (hs : PathTree s)
    (h : htInsert sym code bits s = .ok t) :
    PathTree t ∧ entryAt t.arena 0 = inserted (entryAt s.arena 0) (pathBits code bits) sym := by
  obtain ⟨⟨depth, hlayered⟩, hunique⟩ := hs
  have htree := htInsert_layered h hlayered
  obtain ⟨hpath, l, u, j, v, hleaf, hwalk, rfl⟩ := htInsert_parts h
  have hfollow : ∀ q, follow u.arena 0 q = follow s.arena 0 q := follow_congr hleaf.child 0
  have hl : Spare s.arena l := hlayered.spare hleaf.slot.ge
  have hlu : Spare u.arena l :=
    ⟨fun q => by rw [hfollow]; exact hl.unreached q, fun b => by rw [hleaf.child]; exact hl.childless b⟩
  have hltaken : l.val < u.nextFree.val := by rw [hleaf.nextFree, hleaf.slot]; omega
  have hentries : entryAt u.arena 0 = entryAt s.arena 0 := by
    funext q
    rw [entryAt, hfollow, entryAt]
    refine Option.map_congr fun k hk => ?_
    rw [hleaf.label, if_neg]
    rintro rfl
    exact hl.unreached q hk
  obtain ⟨huniquev, hlv, hfilled⟩ := hwalk.entryAt_eq (p₀ := []) (hleaf.layered hlayered 0)
    (fun p q i hp hq => hunique p q i (hfollow p ▸ hp) (hfollow q ▸ hq)) rfl hlu hltaken
  have hlink := follow_of_linked huniquev hwalk.follow_eq hlv
    (fun k b' => child_setSlot_setChild v.arena j l k (code.getLsbD 0) b')
  rw [← hpath] at hlink
  refine ⟨⟨htree, uniquePaths_of_graft huniquev hlink hlv⟩, ?_⟩
  rw [setChild_arena, entryAt_of_graft hlink hlv fun k _ => label_setSlot_setChild .., hfilled,
    label_setSlot_setChild, hwalk.label_kept hltaken, hleaf.label, if_pos rfl, hentries, inserted,
    List.nil_append]

end Sys2Proof.Machine
end

section
/-! PROOFS. BUILD as a run over the table's codes: the count of its slots (41 R137, R139), on a tree
without an arena. -/
namespace Sys2Proof.Machine

/-! ### One entry of the list -/

/-- The path of a canonical code (41 R135). -/
def codePath (p : CslEntry × Nat) : List Bool := pathBits (BitVec.ofNat 32 p.2) p.1.len.toNat

theorem codePaths_eq (cl : Vector Nibble 512) :
    codePaths cl = (canonicalCodes (canonicalList cl) 0 1).map codePath := rfl

@[simp] theorem length_codePath (p : CslEntry × Nat) : (codePath p).length = p.1.len.toNat :=
  length_pathBits ..

theorem codePath_ne_nil {p : CslEntry × Nat} (h : p.1.len ≠ 0) : codePath p ≠ [] := fun hnil => by
  have hlength := congrArg List.length hnil
  rw [length_codePath] at hlength
  exact h (BitVec.eq_of_toNat_eq hlength)

/-- CODE and BITS stand at `code` and `bits`. -/
structure CountsAt (code bits : Nat) (s : State) : Prop where
  code : s.code = BitVec.ofNat 32 code
  bits : s.bits.toNat = bits

/-- What HT_ASSIGN's loop does for an entry with the code `p.2`: the insertion, and the count. -/
structure AssignsCode (p : CslEntry × Nat) (s t : State) : Prop where
  tree : PathTree t
  counts : CountsAt (p.2 + 1) p.1.len.toNat t
  entries : entryAt t.arena 0 = inserted (entryAt s.arena 0) (codePath p) p.1.sym
  slots : t.nextFree.val = s.nextFree.val + 1 + newNodes s.arena 0 (codePath p).dropLast

theorem shiftLeft_ofNat (code k : Nat) : BitVec.ofNat 32 code <<< k = BitVec.ofNat 32 (code * 2 ^ k) := by
  apply BitVec.eq_of_toNat_eq
  simp [Nat.shiftLeft_eq, Nat.mod_mul_mod]

theorem nibble_setWidth_toNat (len : Nibble) : (len.setWidth 32).toNat = len.toNat :=
  BitVec.toNat_setWidth_of_le (by decide)

/-- CODE and BITS as HT_ASSIGN sets them for an entry. -/
def atEntry (e : CslEntry) (s : State) : State :=
  { s with code := s.code <<< (e.len.toNat - s.bits.toNat), bits := e.len.setWidth 32 }

theorem assignEntry_eq (e : CslEntry) (s : State) :
    assignEntry e s = htInsert e.sym (atEntry e s).code e.len.toNat (atEntry e s) >>= fun u =>
      .ok { u with code := u.code + 1 } := by
  rw [← nibble_setWidth_toNat e.len]; rfl

theorem atEntry_code {e : CslEntry} {code bits : Nat} {s : State} (h : CountsAt code bits s) :
    (atEntry e s).code = BitVec.ofNat 32 (code * 2 ^ (e.len.toNat - bits)) := by
  rw [← shiftLeft_ofNat, ← h.code, ← h.bits]; rfl

theorem assignEntry_fits {e : CslEntry} {code bits : Nat} {s : State} (hs : PathTree s)
    (hcounts : CountsAt code bits s) (hlen : e.len ≠ 0) {p : CslEntry × Nat}
    (hp : p = (e, code * 2 ^ (e.len.toNat - bits))) :
    (∃ t, assignEntry e s = .ok t ∧ AssignsCode p s t) ∨
    (assignEntry e s = .error .invalidHuffmanTree ∧
      1024 < s.nextFree.val + 1 + newNodes s.arena 0 (codePath p).dropLast) := by
  subst hp
  have hbits : e.len.toNat ≠ 0 := fun h => hlen (BitVec.eq_of_toNat_eq h)
  have hcode := atEntry_code (e := e) hcounts
  have hstart : PathTree (atEntry e s) := ⟨hs.layered, hs.unique⟩
  obtain ⟨depth, hlayered⟩ := hstart.layered
  rw [assignEntry_eq]
  obtain ⟨u, hinsert, hslots⟩ | ⟨hinsert, hover⟩ :=
    htInsert_fits (sym := e.sym) (code := (atEntry e s).code) hbits hlayered
  · obtain ⟨htree, hentries⟩ := htInsert_entryAt hstart hinsert
    have hframe := htInsert_frame hinsert
    rw [hcode] at hslots hentries
    refine .inl ⟨{ u with code := u.code + 1 }, by rw [hinsert, except_ok_bind],
      ⟨htree.layered, htree.unique⟩, ⟨?_, ?_⟩, hentries, hslots⟩
    · show u.code + 1 = _
      rw [hframe, hcode, BitVec.ofNat_add]; rfl
    · show u.bits.toNat = _
      rw [hframe]; exact nibble_setWidth_toNat e.len
  · rw [hcode] at hover
    exact .inr ⟨by rw [hinsert, except_error_bind], hover⟩

theorem assignEntry_assignsCode {e : CslEntry} {code bits : Nat} {s t : State} (hs : PathTree s)
    (hcounts : CountsAt code bits s) (hlen : e.len ≠ 0) (h : assignEntry e s = .ok t) :
    AssignsCode (e, code * 2 ^ (e.len.toNat - bits)) s t := by
  obtain ⟨u, hu, hassigns⟩ | ⟨hfail, -⟩ := assignEntry_fits hs hcounts hlen rfl
  · rw [hu] at h; cases h; exact hassigns
  · rw [hfail] at h; cases h

/-! ### The tree without an arena -/

/-- The tree has a node at the end of a path. -/
def Shape.Has : Shape → List Bool → Prop
  | t, [] => t ≠ .empty
  | t, b :: p => (t.child b).Has p

@[simp] theorem Shape.has_nil (t : Shape) : t.Has [] ↔ t ≠ .empty := Iff.rfl

@[simp] theorem Shape.has_cons (t : Shape) (b : Bool) (p : List Bool) :
    t.Has (b :: p) ↔ (t.child b).Has p := Iff.rfl

theorem Shape.setChild_ne_empty (t c : Shape) (b : Bool) : t.setChild b c ≠ .empty := by
  cases t <;> cases b <;> simp [Shape.setChild]

/-- An insertion makes the path's nodes and replaces what was at its end. -/
theorem Shape.has_insert {t : Shape} {p q : List Bool} :
    (t.insert p).Has q ↔ if p <+: q then q = p else t.Has q ∨ q <+: p := by
  induction p generalizing t q with
  | nil =>
    rw [Shape.insert_nil, if_pos List.nil_prefix]
    cases q with
    | nil => simp [Shape.bare]
    | cons b q =>
      have hempty : ∀ r, ¬ Shape.empty.Has r := fun r => by
        induction r with
        | nil => simp
        | cons b r ih => exact ih
      simp [hempty]
  | cons b p ih =>
    rw [Shape.insert_cons]
    cases q with
    | nil => simp [Shape.setChild_ne_empty]
    | cons b' q =>
      rw [Shape.has_cons]
      by_cases hb : b' = b
      · subst hb
        simp only [Shape.child_setChild_self, ih, List.cons_prefix_cons, true_and, List.cons.injEq,
          Shape.has_cons]
      · obtain rfl : b' = !b := Bool.eq_not.2 hb
        simp [Shape.child_setChild_not, List.cons_prefix_cons]

/-- The tree has the nodes that the arena's root leads to. -/
def Shape.Of (t : Shape) (f : List Bool → Option (Option U16)) : Prop := ∀ q, t.Has q ↔ (f q).isSome

theorem isSome_inserted {f : List Bool → Option (Option U16)} {p : List Bool} (hp : p ≠ []) (w : U16)
    (q : List Bool) :
    (inserted f p w q).isSome ↔ if p <+: q then q = p else (f q).isSome ∨ q <+: p := by
  obtain ⟨r, b, rfl⟩ := (List.eq_nil_or_concat' p).resolve_left hp
  rw [inserted, graft, List.dropLast_concat]
  by_cases hq : r ++ [b] <+: q
  · by_cases he : q = r ++ [b] <;> simp [he, hq]
  · have hne : q ≠ r ++ [b] := fun e => hq (e ▸ List.prefix_rfl)
    rw [if_neg hq, if_neg hq, filled, List.prefix_concat_iff]
    by_cases hr : q <+: r <;> simp [hr, hne]

theorem Shape.Of.insert {t : Shape} {f : List Bool → Option (Option U16)} (h : t.Of f) {p : List Bool}
    (hp : p ≠ []) (w : U16) : (t.insert p).Of (inserted f p w) := fun q => by
  rw [Shape.has_insert, isSome_inserted hp w, h q]

/-- The walks in the arena and in the tree create the same nodes. -/
theorem Shape.Of.newNodes_eq {t : Shape} {a : Vector Node 1024} {i : Slot} (h : t.Of (entryAt a i))
    (p : List Bool) : Machine.newNodes a i p = t.newNodes p := by
  induction p generalizing t i with
  | nil => simp
  | cons b p ih =>
    have hb : t.child b ≠ .empty ↔ ((slotAt a i).child b).isSome := by
      simpa [isSome_entryAt, follow_cons] using h [b]
    cases hc : (slotAt a i).child b with
    | none =>
      have hempty : t.child b = .empty := by rw [hc] at hb; simpa using hb
      rw [newNodes_cons_none hc, Shape.newNodes_cons_empty hempty]
    | some c =>
      rw [newNodes_cons_some hc, Shape.newNodes_cons (hb.2 (by rw [hc]; rfl))]
      refine ih fun q => ?_
      rw [← entryAt_cons hc, ← h (b :: q), Shape.has_cons]

theorem Shape.newNodesOfAll_cons (t : Shape) (p : List Bool) (l : List (List Bool)) :
    t.newNodesOfAll (p :: l) = t.newNodes p.dropLast + (t.insert p).newNodesOfAll l := rfl

/-! ### The whole list -/

/-- HT_ASSIGN's loop takes a slot for each leaf and each node the walks create, or fails where they do
not fit. -/
theorem assignAll_fits {l : List CslEntry} {code bits : Nat} {s : State} {shape : Shape} (hs : PathTree s)
    (hcounts : CountsAt code bits s) (hlen : ∀ e ∈ l, e.len ≠ 0) (hshape : shape.Of (entryAt s.arena 0))
    {needed : Nat} (hneeded : needed = s.nextFree.val + l.length +
      shape.newNodesOfAll ((canonicalCodes l code bits).map codePath)) :
    (∃ t, assignAll l s = .ok t ∧ t.nextFree.val = needed) ∨
    (assignAll l s = .error .invalidHuffmanTree ∧ 1024 < needed) := by
  induction l generalizing code bits s shape with
  | nil => exact .inl ⟨s, rfl, hneeded.symm⟩
  | cons e l ih =>
    rw [canonicalCodes_cons, List.map_cons, List.length_cons, Shape.newNodesOfAll_cons,
      ← hshape.newNodes_eq] at hneeded
    have he : e.len ≠ 0 := hlen e (by simp)
    obtain ⟨u, hu, hassigns⟩ | ⟨hfail, hover⟩ := assignEntry_fits hs hcounts he rfl
    · have hslots := hassigns.slots
      rw [assignAll, hu, except_ok_bind]
      exact ih hassigns.tree hassigns.counts (fun e' he' => hlen e' (by simp [he']))
        (hassigns.entries ▸ hshape.insert (codePath_ne_nil he) e.sym) (by dsimp only; omega)
    · rw [assignAll, hfail, except_error_bind]
      exact .inr ⟨rfl, by omega⟩

/-! ### The start of HT_ASSIGN -/

/-- The state in which HT_ASSIGN's loop starts. -/
def assignStart (s : State) : State := { s.setLeaf 0 false with nextFree := 1, code := 0, bits := 1 }

theorem htAssign_eq (s : State) : htAssign s = assignAll s.csl (assignStart s) := rfl

theorem follow_freshArena (i : Slot) (p : List Bool) :
    follow freshArena i p = if p = [] then some i else none := by
  cases p with
  | nil => rfl
  | cons b p => rw [follow_cons, slotAt_freshArena, Node.child_clear]; rfl

section
variable {s : State} (h : s.arena = freshArena)
include h

theorem assignStart_arena : (assignStart s).arena = freshArena := setLeaf_root_fresh h

theorem assignStart_pathTree : PathTree (assignStart s) := by
  refine ⟨⟨_, assignStart_arena h ▸ layered_fresh⟩, fun p q i hp hq => ?_⟩
  rw [assignStart_arena h, follow_freshArena] at hp hq
  simp only [Option.ite_none_right_eq_some] at hp hq
  rw [hp.1, hq.1]

theorem assignStart_entryAt (q : List Bool) :
    entryAt (assignStart s).arena 0 q = if q = [] then some none else none := by
  rw [assignStart_arena h, entryAt, follow_freshArena]
  split
  · rw [Option.map_some, slotAt_freshArena]; rfl
  · rfl

theorem assignStart_shape : Shape.bare.Of (entryAt (assignStart s).arena 0) := fun q => by
  rw [assignStart_entryAt h, ← Shape.insert_nil .empty, Shape.has_insert, if_pos List.nil_prefix]
  split <;> simp [*]

end

theorem assignStart_countsAt (s : State) : CountsAt 0 1 (assignStart s) := ⟨rfl, rfl⟩

theorem canonicalList_len_ne_zero {cl : Vector Nibble 512} {e : CslEntry} (h : e ∈ canonicalList cl) :
    e.len ≠ 0 := by
  obtain ⟨j, hj, rfl⟩ := mem_canonicalList.1 h
  exact hj

/-! ### BUILD -/

/-- HT_ASSIGN from a clear arena, for a table's list. -/
theorem htAssign_fits {s : State} (harena : s.arena = freshArena) :
    (∃ t, htAssign (sortedTable s) = .ok t ∧ t.nextFree.val = slotsNeeded (tableLengths s)) ∨
    (htAssign (sortedTable s) = .error .invalidHuffmanTree ∧ 1024 < slotsNeeded (tableLengths s)) := by
  have hstart : (sortedTable s).arena = freshArena := by
    rw [sortedTable, htSort_arena]; exact harena
  have hneeded : slotsNeeded (tableLengths s) = (assignStart (sortedTable s)).nextFree.val +
      (canonicalList (tableLengths s)).length + Shape.bare.newNodesOfAll
        ((canonicalCodes (canonicalList (tableLengths s)) 0 1).map codePath) := by
    rw [slotsNeeded, length_codePaths, codePaths_eq]; rfl
  rw [htAssign_eq]
  exact assignAll_fits (assignStart_pathTree hstart) (assignStart_countsAt _)
    (fun e => canonicalList_len_ne_zero) (assignStart_shape hstart) hneeded

theorem htAssign_tables {s t : State} (h : htAssign (sortedTable s) = .ok t) :
    t.cl = tableLengths s ∧ t.csl = canonicalList (tableLengths s) := by
  rw [assignAll_frame h]; exact ⟨rfl, rfl⟩

/-- Settles O59: the walks in the arena are those in the tree of the codes, node for node. -/
theorem buildCompletesExactlyWhereTheTrieFits : Obligations.BuildCompletesExactlyWhereTheTrieFits := by
  intro s hphase harena htable hused
  have hbuilder : builder s = htAssign (sortedTable s) := by
    rw [builder_of_readable htable, if_neg]
    obtain ⟨j, hj⟩ := hused
    exact fun hnil => hj (canonicalList_eq_nil_iff.1 hnil j)
  rw [engineStep_of_build hphase, buildStep]
  obtain ⟨u, hassign, hnext⟩ | ⟨hassign, hover⟩ := htAssign_fits harena
  · refine ⟨fun _ => ?_, fun hover => absurd (nextFree_le u) (by omega)⟩
    obtain ⟨hcl, hcsl⟩ := htAssign_tables hassign
    have hframe := builder_frame (hbuilder.trans hassign)
    refine ⟨{ u with phase := .init }, u, ?_, hbuilder.trans hassign, rfl, rfl, ?_, ?_, hcl, hcsl, hnext⟩
    · rw [hbuilder, hassign, except_ok_bind, conclude_ok]
    · rw [hframe]
    · rw [hframe]
  · refine ⟨fun hfit => absurd hfit (by omega), fun _ => ⟨abort .invalidHuffmanTree s, ?_, rfl, rfl, rfl⟩⟩
    rw [hbuilder, hassign, except_error_bind, conclude_error]

end Sys2Proof.Machine
end

section
/-! PROOFS. The canonical code of a table with Kraft sum at most 1 (41 R133, R141): no code's path continues
another's, so every leaf inserted stays the first on its path. -/
namespace Sys2Proof.Machine

/-! ### The value of a path -/

theorem bitsValue_append (p q : List Bool) :
    bitsValue (p ++ q) = bitsValue p * 2 ^ q.length + bitsValue q := by
  induction q using List.reverseRecOn with
  | nil => simp [bitsValue]
  | append_singleton q b ih =>
    rw [← List.append_assoc, bitsValue_concat, bitsValue_concat, ih, List.length_append, pow_add]
    simp only [List.length_singleton, pow_one]
    ring

theorem bitsValue_lt (p : List Bool) : bitsValue p < 2 ^ p.length := by
  induction p using List.reverseRecOn with
  | nil => simp [bitsValue]
  | append_singleton p b ih =>
    have := b.toNat_lt
    rw [bitsValue_concat, List.length_append, List.length_singleton, pow_succ]
    omega

theorem pathBits_succ (code : U32) (n : Nat) : pathBits code (n + 1) = code.getLsbD n :: pathBits code n := by
  simp [pathBits, List.range_succ_eq_map, Nat.sub_sub, Nat.add_comm]

theorem bitsValue_pathBits (code : U32) (n : Nat) : bitsValue (pathBits code n) = code.toNat % 2 ^ n := by
  induction n with
  | zero => simp [pathBits, bitsValue, Nat.mod_one]
  | succ n ih =>
    have hbit : bitsValue [code.getLsbD n] = code.toNat / 2 ^ n % 2 := by
      rw [← BitVec.testBit_toNat, ← Nat.toNat_testBit]
      simp [bitsValue]
    rw [pathBits_succ, ← List.singleton_append, bitsValue_append, ih, hbit, length_pathBits, Nat.mod_pow_succ]
    ring

theorem bitsValue_codePath {p : CslEntry × Nat} (h : p.2 < 2 ^ p.1.len.toNat) :
    bitsValue (codePath p) = p.2 := by
  have hlen : 2 ^ p.1.len.toNat ≤ 2 ^ 32 := Nat.pow_le_pow_right two_pos (by have := p.1.len.isLt; omega)
  rw [codePath, bitsValue_pathBits, BitVec.toNat_ofNat, Nat.mod_eq_of_lt (h.trans_le hlen), Nat.mod_eq_of_lt h]

/-! ### The codes as intervals, in units of 2^-15 -/

/-- The share of the unit interval that a code of an entry's length has. -/
def CslEntry.width (e : CslEntry) : Nat := 2 ^ (15 - e.len.toNat)

/-- Where the interval of a code starts. -/
def codeStart (p : CslEntry × Nat) : Nat := p.2 * p.1.width

theorem width_mul_two_pow (e : CslEntry) : e.width * 2 ^ e.len.toNat = 2 ^ 15 := by
  have := e.len.isLt
  rw [CslEntry.width, ← pow_add]; congr 1; omega

/-- A code of a longer length starts where the shorter one does. -/
theorem shift_mul_width {e : CslEntry} {bits : Nat} (h : bits ≤ e.len.toNat) (code : Nat) :
    code * 2 ^ (e.len.toNat - bits) * e.width = code * 2 ^ (15 - bits) := by
  have := e.len.isLt
  rw [mul_assoc, CslEntry.width, ← pow_add]; congr 2; omega

/-- The codes' intervals follow each other without a gap from `code * 2 ^ (15 - bits)`. -/
theorem canonicalCodes_intervals {l : List CslEntry} {code bits : Nat}
    (hsorted : l.Pairwise fun a b => a.len.toNat ≤ b.len.toNat) (hbits : ∀ e ∈ l, bits ≤ e.len.toNat) :
    (∀ p ∈ canonicalCodes l code bits, code * 2 ^ (15 - bits) ≤ codeStart p ∧
      codeStart p + p.1.width ≤ code * 2 ^ (15 - bits) + (l.map CslEntry.width).sum) ∧
    (canonicalCodes l code bits).Pairwise fun p q => codeStart p + p.1.width ≤ codeStart q := by
  induction l generalizing code bits with
  | nil => simp
  | cons e l ih =>
    have hstart := shift_mul_width (hbits e (by simp)) code
    obtain ⟨hfirst, hrest⟩ := List.pairwise_cons.1 hsorted
    obtain ⟨hin, hpairwise⟩ := ih (code := code * 2 ^ (e.len.toNat - bits) + 1) hrest hfirst
    have hnext : (code * 2 ^ (e.len.toNat - bits) + 1) * 2 ^ (15 - e.len.toNat) =
        code * 2 ^ (15 - bits) + e.width := by
      rw [add_mul, one_mul, ← hstart, CslEntry.width]
    rw [hnext] at hin
    rw [canonicalCodes_cons, List.pairwise_cons, List.map_cons, List.sum_cons]
    refine ⟨fun p hp => ?_, fun p hp => ?_, hpairwise⟩
    · obtain rfl | hp := List.mem_cons.1 hp
      · rw [codeStart, hstart]; dsimp only; omega
      · have := hin p hp; omega
    · rw [codeStart, hstart]; exact (hin p hp).1

/-! ### Of two codes apart neither continues the other -/

/-- Neither path continues the other. -/
def PathsApart (p q : List Bool) : Prop := ¬ p <+: q ∧ ¬ q <+: p

theorem not_prefix_of_interval {p q : CslEntry × Nat} (hp : p.2 < 2 ^ p.1.len.toNat)
    (hq : q.2 < 2 ^ q.1.len.toNat)
    (h : codeStart p + p.1.width ≤ codeStart q ∨ codeStart q + q.1.width ≤ codeStart p) :
    ¬ codePath p <+: codePath q := by
  rintro ⟨r, hcontinues⟩
  have hvalue := bitsValue_append (codePath p) r
  rw [hcontinues, bitsValue_codePath hp, bitsValue_codePath hq] at hvalue
  have hlength := congrArg List.length hcontinues
  rw [List.length_append, length_codePath, length_codePath] at hlength
  have hlt := bitsValue_lt r
  have hwidth : p.1.width = 2 ^ r.length * q.1.width := by
    have := q.1.len.isLt
    rw [CslEntry.width, CslEntry.width, ← pow_add]; congr 1; omega
  have hqpos : 0 < q.1.width := Nat.two_pow_pos _
  rw [codeStart, codeStart, hvalue, hwidth] at h
  obtain h | h := h
  · rw [← mul_assoc, ← add_mul] at h
    have := Nat.le_of_mul_le_mul_right h hqpos
    omega
  · rw [← mul_assoc, ← Nat.succ_mul] at h
    have := Nat.le_of_mul_le_mul_right h hqpos
    omega

theorem canonicalList_pairwise_len_le (cl : Vector Nibble 512) :
    (canonicalList cl).Pairwise fun a b => a.len.toNat ≤ b.len.toNat :=
  (canonicalList_pairwise_before cl).imp fun h => by
    have := CslEntry.before_iff.1 h; omega

theorem sum_width_filter (l : List CslEntry) :
    ((l.filter fun e => e.len != 0).map CslEntry.width).sum =
      (l.map fun e => if e.len = 0 then 0 else e.width).sum := by
  induction l with
  | nil => rfl
  | cons e l ih =>
    rw [List.map_cons, List.sum_cons, ← ih]
    by_cases he : e.len = 0
    · rw [List.filter_cons_of_neg (by simpa using he), if_pos he, Nat.zero_add]
    · rw [List.filter_cons_of_pos (by simpa using he), List.map_cons, List.sum_cons, if_neg he]

theorem kraftSum_eq (cl : Vector Nibble 512) :
    kraftSum cl = ((canonicalList cl).map CslEntry.width).sum := by
  rw [((canonicalList_perm cl).map _).sum_eq, usedEntries, sum_width_filter, List.map_map, kraftSum]
  conv_lhs => rw [← List.zipIdx_map_fst 0 cl.toList, List.map_map]
  rfl

theorem canonicalCodes_of_kraft {cl : Vector Nibble 512} (h : kraftSum cl ≤ 2 ^ 15) :
    (∀ p ∈ canonicalCodes (canonicalList cl) 0 1, p.2 < 2 ^ p.1.len.toNat) ∧
    (canonicalCodes (canonicalList cl) 0 1).Pairwise fun p q => PathsApart (codePath p) (codePath q) := by
  obtain ⟨hin, hpairwise⟩ := canonicalCodes_intervals (code := 0) (bits := 1)
    (canonicalList_pairwise_len_le cl) fun e he => Nat.one_le_iff_ne_zero.2 fun hzero =>
      canonicalList_len_ne_zero he (BitVec.eq_of_toNat_eq hzero)
  rw [kraftSum_eq] at h
  have hfits : ∀ p ∈ canonicalCodes (canonicalList cl) 0 1, p.2 < 2 ^ p.1.len.toNat := fun p hp => by
    have hend := (hin p hp).2
    have hunit := width_mul_two_pow p.1
    have hpos : 0 < p.1.width := Nat.two_pow_pos _
    refine Nat.lt_of_mul_lt_mul_left (a := p.1.width) ?_
    rw [codeStart] at hend
    linarith
  refine ⟨hfits, hpairwise.imp_of_mem fun hp hq hapart => ⟨?_, ?_⟩⟩
  · exact not_prefix_of_interval (hfits _ hp) (hfits _ hq) (.inl hapart)
  · exact not_prefix_of_interval (hfits _ hq) (hfits _ hp) (.inr hapart)

/-! ### Leaves at the ends of paths that are apart -/

/-- The path leads to a leaf for `w`, past internal nodes only. -/
structure HoldsCode (f : List Bool → Option (Option U16)) (p : List Bool) (w : U16) : Prop where
  leaf : f p = some (some w)
  inner : ∀ q, q <+: p → q ≠ p → f q = some none

theorem inserted_of_not_prefix {f : List Bool → Option (Option U16)} {p q : List Bool} {w : U16}
    {x : Option U16} (h : ¬ p <+: q) (hq : f q = some x) : inserted f p w q = some x := by
  rw [inserted, graft_of_not_prefix h, filled, hq]; rfl

theorem HoldsCode.inserted {f : List Bool → Option (Option U16)} {p p' : List Bool} {w w' : U16}
    (h : HoldsCode f p w) (hp : ¬ p' <+: p) : HoldsCode (inserted f p' w') p w where
  leaf := inserted_of_not_prefix hp h.leaf
  inner q hq hne := inserted_of_not_prefix (fun h' => hp (h'.trans hq)) (h.inner q hq hne)

/-- An insertion whose path passes no leaf makes the path's own. -/
theorem holdsCode_inserted {f : List Bool → Option (Option U16)} {p : List Bool} {w : U16}
    (h : ∀ q x, q <+: p → f q ≠ some (some x)) : HoldsCode (inserted f p w) p w where
  leaf := graft_self ..
  inner q hq hne := by
    have hnot : ¬ p <+: q := fun h' => hne (hq.eq_of_length_le h'.length_le)
    cases hfq : f q with
    | some e =>
      cases e with
      | some x => exact absurd hfq (h q x hq)
      | none => exact inserted_of_not_prefix hnot hfq
    | none =>
      obtain ⟨r, b, rfl⟩ := (List.eq_nil_or_concat' p).resolve_left fun e => hnot (e ▸ List.nil_prefix)
      have hqr : q <+: r := (List.prefix_concat_iff.1 hq).resolve_left hne
      rw [Machine.inserted, graft_of_not_prefix hnot, List.dropLast_concat, filled, hfq, if_pos hqr]; rfl

theorem leaf_of_inserted {f : List Bool → Option (Option U16)} {p q : List Bool} {w x : U16}
    (h : inserted f p w q = some (some x)) : q = p ∨ f q = some (some x) := by
  obtain ⟨hq, -⟩ | ⟨-, h⟩ := graft_eq_some h
  · exact .inl hq
  · cases hfq : f q with
    | some e => rw [filled, hfq] at h; exact .inr h
    | none => rw [filled, hfq, Option.none_or] at h; split at h <;> cases h

/-- One insertion of HT_ASSIGN. -/
def insertCode (f : List Bool → Option (Option U16)) (p : CslEntry × Nat) :
    List Bool → Option (Option U16) := inserted f (codePath p) p.1.sym

theorem HoldsCode.foldl {l : List (CslEntry × Nat)} {f : List Bool → Option (Option U16)} {p : List Bool}
    {w : U16} (h : HoldsCode f p w) (hl : ∀ q ∈ l, ¬ codePath q <+: p) :
    HoldsCode (l.foldl insertCode f) p w := by
  induction l generalizing f with
  | nil => exact h
  | cons q l ih => exact ih (h.inserted (hl q (by simp))) fun q' hq' => hl q' (by simp [hq'])

/-- Codes apart from each other and from the leaves there are all keep their leaves. -/
theorem holdsCode_foldl {l : List (CslEntry × Nat)} {f : List Bool → Option (Option U16)}
    (hapart : l.Pairwise fun p q => PathsApart (codePath p) (codePath q))
    (hf : ∀ p ∈ l, ∀ q x, q <+: codePath p → f q ≠ some (some x)) {p : CslEntry × Nat} (hp : p ∈ l) :
    HoldsCode (l.foldl insertCode f) (codePath p) p.1.sym := by
  induction l generalizing f with
  | nil => cases hp
  | cons r l ih =>
    obtain ⟨hr, hl⟩ := List.pairwise_cons.1 hapart
    rw [List.foldl_cons]
    obtain rfl | hp := List.mem_cons.1 hp
    · exact (holdsCode_inserted (hf p (by simp))).foldl fun q hq => (hr q hq).2
    · refine ih hl (fun q hq q' x hprefix hleaf => ?_) hp
      obtain rfl | hleaf := leaf_of_inserted hleaf
      · exact (hr q hq).1 hprefix
      · exact hf q (by simp [hq]) q' x hprefix hleaf

/-! ### The decoder's lookup -/

theorem lookup_cons_some {a : Vector Node 1024} {i c : Slot} {b : Bool}
    (h : (slotAt a i).child b = some c) (p : List Bool) : lookup a i (b :: p) =
      if (slotAt a c).leaf then (if p.isEmpty then some (slotAt a c).sym else none) else lookup a c p := by
  simp [lookup, h]

/-- A leaf past internal nodes only is what the decoder finds. -/
theorem HoldsCode.lookup_eq {a : Vector Node 1024} {i : Slot} {p : List Bool} {w : U16}
    (h : HoldsCode (entryAt a i) p w) (hne : p ≠ []) : lookup a i p = some w := by
  induction p generalizing i with
  | nil => exact absurd rfl hne
  | cons b p ih =>
    cases hc : (slotAt a i).child b with
    | none =>
      have hnone := entryAt_append_of_none (a := a) (i := i) (p := [b]) (by rw [follow_cons, hc]; rfl) p
      rw [List.singleton_append, h.leaf] at hnone
      cases hnone
    | some c =>
      have hrest : HoldsCode (entryAt a c) p w := by
        refine ⟨by rw [← entryAt_cons hc, h.leaf], fun q hq hqp => ?_⟩
        rw [← entryAt_cons hc]
        exact h.inner (b :: q) (by simpa using hq) (by simpa using hqp)
      rw [lookup_cons_some hc]
      cases p with
      | nil =>
        obtain ⟨hleaf, hsym⟩ := Node.label_eq_some.1 (Option.some.inj hrest.leaf)
        rw [hleaf, hsym]; rfl
      | cons b' p =>
        have hinner : (slotAt a c).leaf = false := by
          have := Option.some.inj (hrest.inner [] List.nil_prefix (by simp))
          cases hleaf : (slotAt a c).leaf with
          | false => rfl
          | true => simp [Node.label, hleaf] at this
        rw [hinner]; exact ih hrest (by simp)

/-! ### The builder's leaves -/

theorem assignAll_entryAt {l : List CslEntry} {code bits : Nat} {s t : State} (hs : PathTree s)
    (hcounts : CountsAt code bits s) (hlen : ∀ e ∈ l, e.len ≠ 0) (h : assignAll l s = .ok t) :
    entryAt t.arena 0 = (canonicalCodes l code bits).foldl insertCode (entryAt s.arena 0) := by
  induction l generalizing code bits s with
  | nil => cases h; rfl
  | cons e l ih =>
    obtain ⟨u, hentry, hrest⟩ := except_bind_eq_ok.1 h
    have hassigns := assignEntry_assignsCode hs hcounts (hlen e (by simp)) hentry
    rw [canonicalCodes_cons, List.foldl_cons, insertCode, ← hassigns.entries]
    exact ih hassigns.tree hassigns.counts (fun e' he' => hlen e' (by simp [he'])) hrest

/-- Settles O35: the codes of a table that fits are apart, so no insertion touches another's leaf. -/
theorem everyUsedSymbolHasACodeOfItsLength : Obligations.EveryUsedSymbolHasACodeOfItsLength := by
  intro s t harena hbuilt hkraft j hj
  obtain ⟨u, hexpand, -, hassign⟩ := builder_eq_ok.1 hbuilt
  obtain ⟨-, rfl⟩ := htExpand_eq_ok.1 hexpand
  change htAssign (sortedTable s) = .ok t at hassign
  have hstart : (sortedTable s).arena = freshArena := by rw [sortedTable, htSort_arena]; exact harena
  obtain ⟨hcl, hcsl⟩ := htAssign_tables hassign
  rw [← hcl] at hcsl
  have hentries := assignAll_entryAt (assignStart_pathTree hstart) (assignStart_countsAt _)
    (fun e => canonicalList_len_ne_zero (cl := tableLengths s)) hassign
  rw [← hcl] at hentries
  obtain ⟨hfits, hapart⟩ := canonicalCodes_of_kraft hkraft
  have hmem : (⟨BitVec.ofNat 16 j.val, codeLength t.cl j⟩ : CslEntry) ∈
      (canonicalCodes (canonicalList t.cl) 0 1).map Prod.fst := by
    rw [map_fst_canonicalCodes]; exact mem_canonicalList.2 ⟨j, hj, rfl⟩
  obtain ⟨⟨e, code⟩, hp, rfl⟩ := List.mem_map.1 hmem
  have hholds := holdsCode_foldl (f := entryAt (assignStart (sortedTable s)).arena 0) hapart
    (fun p _ q x _ => by rw [assignStart_entryAt hstart]; split <;> simp) hp
  rw [← hentries] at hholds
  exact ⟨code, _, hcsl ▸ hp, rfl, length_pathBits .., bitsValue_codePath (hfits _ hp),
    hholds.lookup_eq (codePath_ne_nil hj)⟩

end Sys2Proof.Machine
end

section
/-! PROOFS. The walk of the trie against the stream's bits: one level, the bits a walk consumes, and how a
walk along a given path ends (42 R160 to R162). -/
namespace Sys2Proof.Machine

/-! ### One level (42 R160, 92 D15) -/

theorem brSkip_of_canSkip {n : Nat} {s : State} (h : canSkip n s = true) : ∃ w, brSkip n s = .ok w := by
  cases hskip : brSkip n s with
  | ok w => exact ⟨w, rfl⟩
  | error e => rw [(brSkip_eq_error.1 hskip).1] at h; cases h

/-- The bit a level peeks is the top bit of MASK. -/
theorem peekedBit_ne_zero (w : U32) : (w >>> 31 != 0) = w.getLsbD 31 := by
  have hbit : w >>> 31 = 0 ↔ ¬ 2 ^ 31 ≤ w.toNat := by
    rw [← BitVec.toNat_inj, BitVec.toNat_ushiftRight, Nat.shiftRight_eq_div_pow]
    simp
  have hmsb : w.getLsbD 31 = decide (2 ^ 31 ≤ w.toNat) := BitVec.msb_eq_decide w
  rw [hmsb, bne, beq_eq_decide, decide_eq_decide.2 hbit, decide_not, Bool.not_not]

theorem brPeek_one {s : State} (h : 1 ≤ availNum s) : brPeek 1 s = .ok (s.mask >>> 31) :=
  brPeek_eq_ok.2 (.inr ⟨by decide, h, rfl⟩)

theorem tdStep_of_not_canSkip {s : State} (h : canSkip 1 s = false) : tdStep s = .error .bitUnderflow := by
  have hskip : brSkip 1 s = .error .bitUnderflow := brSkip_eq_error.2 ⟨h, rfl⟩
  by_cases havail : 1 ≤ availNum s
  · rw [tdStep, brPeek_one havail, except_ok_bind, hskip, except_error_bind]
  · rw [tdStep, brPeek_eq_error.2 ⟨by decide, by simpa using havail, rfl⟩, except_error_bind]

section
variable {s w : State} (hskip : brSkip 1 s = .ok w)
include hskip

theorem tdStep_missing (hc : (slotAt s.arena s.node).child (s.mask.getLsbD 31) = none) :
    tdStep s = .error .invalidTrieWalk := by
  rw [tdStep, brPeek_one (brSkip_eq_ok.1 hskip).1, except_ok_bind, hskip, except_ok_bind, peekedBit_ne_zero,
    brSkip_frame hskip, hc]

theorem tdStep_child {c : Slot} (hc : (slotAt s.arena s.node).child (s.mask.getLsbD 31) = some c) :
    tdStep s = .ok { w with node := c } := by
  have hle := (brSkip_eq_ok.1 hskip).1
  refine tdStep_eq_ok.2 ⟨_, w, c, brPeek_one hle, hskip, ?_, rfl⟩
  rw [peekedBit_ne_zero, brSkip_frame hskip]; exact hc

end

/-- Settles O7: the skip's failure comes before the child is looked at, and the skip keeps the arena. -/
theorem walkLevelSkipsThenLooksUp : Obligations.WalkLevelSkipsThenLooksUp := by
  refine fun s => ⟨tdStep_of_not_canSkip, fun hcan => ?_⟩
  obtain ⟨w, hskip⟩ := brSkip_of_canSkip hcan
  exact ⟨w, hskip, tdStep_missing hskip, fun _ => tdStep_child hskip⟩

/-- A level that succeeds skipped a bit and found the child the bit chooses. -/
theorem tdStep_ok {s u : State} (h : tdStep s = .ok u) : ∃ w, brSkip 1 s = .ok w ∧
    (slotAt s.arena s.node).child (s.mask.getLsbD 31) = some u.node ∧ u = { w with node := u.node } := by
  obtain ⟨b, w, c, hpeek, hskip, hc, rfl⟩ := tdStep_eq_ok.1 h
  obtain ⟨hzero, -⟩ | ⟨-, -, rfl⟩ := brPeek_eq_ok.1 hpeek
  · cases hzero
  · rw [peekedBit_ne_zero, brSkip_frame hskip] at hc
    exact ⟨w, hskip, hc, rfl⟩

theorem tdStep_arena {s u : State} (h : tdStep s = .ok u) : u.arena = s.arena := by rw [tdStep_frame h]

/-! ### The bound on the walk (42 R161) -/

theorem stops_cons_inner {a : Vector Node 1024} {i c : Slot} {b : Bool} {p : List Bool}
    (hc : (slotAt a i).child b = some c) (hleaf : (slotAt a c).leaf = false) :
    stops a i (b :: p) = stops a c p := by simp [stops, hc, hleaf]

/-- Where every path of `n` bits stops, a walk never uses more than `n` levels. -/
theorem tdWalk_of_stops {n : Nat} {s : State}
    (h : ∀ p : List Bool, p.length = n → stops s.arena s.node p = true) (k : Nat) :
    tdWalk (n + k) s = tdWalk n s := by
  induction n generalizing s with
  | zero => cases h [] rfl
  | succ n ih =>
    rw [Nat.succ_add]
    cases hstep : tdStep s with
    | error e => rw [tdWalk_fail hstep, tdWalk_fail hstep]
    | ok u =>
      cases hleaf : u.leafFlag u.node with
      | true => rw [tdWalk_leaf hstep hleaf, tdWalk_leaf hstep hleaf]
      | false =>
        rw [tdWalk_inner hstep hleaf, tdWalk_inner hstep hleaf]
        refine ih fun p hp => ?_
        obtain ⟨w, -, hc, -⟩ := tdStep_ok hstep
        rw [State.leafFlag, tdStep_arena hstep] at hleaf
        rw [tdStep_arena hstep, ← stops_cons_inner hc hleaf]
        exact h _ (by simp [hp])

/-- Settles O10: at depth 15 every path has stopped. -/
theorem walkBoundIsNeverReached : Obligations.WalkBoundIsNeverReached := by
  intro s fuel harena hfuel
  obtain ⟨k, rfl⟩ := Nat.exists_eq_add_of_le hfuel
  exact tdWalk_of_stops (s := { s with node := 0 }) harena.depth k

/-! ### The bits consumed between two windows (30 R84, 40 R113) -/

/-- From `s` to `t` the bits of `path` are consumed and the stream words `words` loaded, in order, the first
of them from CURSOR. -/
structure Consumes (s : State) (path : List Bool) (words : List U16) (t : State) : Prop where
  bits : path ++ pendingBits t = pendingBits s ++ words.flatMap wordBits
  cursor : t.cursor.toNat = s.cursor.toNat + 2 * words.length
  first : ∀ w, words.head? = some w → memRead2 s s.cursor.toNat = some w
  reads : memRead2 t = memRead2 s

theorem length_pendingBits (s : State) : (pendingBits s).length = (availNum s).toNat := length_topBits ..

theorem length_flatMap_wordBits (words : List U16) : (words.flatMap wordBits).length = 16 * words.length := by
  simp [List.length_flatMap, Nat.mul_comm]

namespace Consumes
variable {s u t : State} {p q : List Bool} {ws vs : List U16}

theorem length (h : Consumes s p ws t) :
    p.length + (availNum t).toNat = (availNum s).toNat + 16 * ws.length := by
  simpa only [List.length_append, length_pendingBits, length_flatMap_wordBits] using
    congrArg List.length h.bits

theorem trans (h : Consumes s p ws u) (h' : Consumes u q vs t) : Consumes s (p ++ q) (ws ++ vs) t where
  bits := by
    rw [List.append_assoc, h'.bits, ← List.append_assoc, h.bits, List.append_assoc, List.flatMap_append]
  cursor := by rw [h'.cursor, h.cursor, List.length_append]; omega
  first w hw := by
    cases ws with
    | nil =>
      have hfirst := h'.first w hw
      rwa [h.reads, h.cursor] at hfirst
    | cons v ws => exact h.first w hw
  reads := h'.reads.trans h.reads

/-- Up to 15 bits load at most one word: a window holds at most 32 bits, and began with 16 or more. -/
theorem words_length_le (h : Consumes s p ws t) (hs : WindowOk s) (ht : WindowOk t) (hp : p.length ≤ 15) :
    ws.length ≤ 1 := by
  have hlength := h.length
  have hlow := hs.availLow
  have hhigh := ht.availHigh
  omega

/-- Whether up to 15 bits can be skipped does not depend on how many of them already have been. -/
theorem canSkip_eq (h : Consumes s p ws t) (hs : WindowOk s) (ht : WindowOk t) {n : Nat}
    (hn : p.length + n ≤ 15) : canSkip n t = canSkip (p.length + n) s := by
  have hlength := h.length
  have hsLow := hs.availLow
  have htLow := ht.availLow
  cases ws with
  | nil =>
    have havail : availNum t = availNum s - p.length := by simp only [List.length_nil] at hlength; omega
    have hcursor : t.cursor.toNat = s.cursor.toNat := h.cursor
    simp only [canSkip, h.reads, hcursor, havail, Nat.cast_add, sub_sub,
      show (n : Int) ≤ availNum s - p.length by omega, show (p.length : Int) + n ≤ availNum s by omega]
  | cons w ws =>
    have hread := h.first w rfl
    rw [List.length_cons] at hlength
    simp [canSkip, hread, show (n : Int) ≤ availNum t by omega, show 16 ≤ availNum t - n by omega,
      show (p.length : Int) + n ≤ availNum s by omega]

end Consumes

theorem WindowOk.skip_consumes {n : Nat} {s t : State} (hs : WindowOk s) (hn : n ≤ 15)
    (h : brSkip n s = .ok t) : ∃ words, Consumes s ((pendingBits s).take n) words t := by
  obtain ⟨hfull, hrefill, hmissing⟩ := skipDropsBitsAndRefills n s hs hn
  have hreads : memRead2 t = memRead2 s := by
    rw [brSkip_frame h]; exact memRead2_congr (memRead1_congr rfl rfl rfl rfl)
  by_cases hlow : availNum s - n < 16
  · cases hread : memRead2 s s.cursor.toNat with
    | none => rw [hmissing hlow hread] at h; cases h
    | some w =>
      obtain ⟨t', ht', hbits, -, hcursor, -⟩ := hrefill hlow w hread
      cases ht'.symm.trans h
      exact ⟨[w], by simp [hbits, ← List.append_assoc], hcursor, by simp [hread], hreads⟩
  · obtain ⟨t', ht', hbits, -, hframe⟩ := hfull (by omega)
    cases ht'.symm.trans h
    exact ⟨[], by simp [hbits], by rw [hframe]; rfl, by simp, hreads⟩

theorem WindowOk.take_one_pendingBits {s : State} (hs : WindowOk s) :
    (pendingBits s).take 1 = [s.mask.getLsbD 31] := by
  have hlow := hs.availLow
  rw [pendingBits, take_topBits _ (by omega)]; rfl

/-- A level consumes the bit that chooses its child. -/
theorem WindowOk.step_consumes {s u : State} (hs : WindowOk s) (h : tdStep s = .ok u) :
    ∃ b words, Consumes s [b] words u ∧ (slotAt s.arena s.node).child b = some u.node := by
  obtain ⟨w, hskip, hc, hu⟩ := tdStep_ok h
  obtain ⟨words, hw⟩ := hs.skip_consumes (by decide) hskip
  rw [hs.take_one_pendingBits] at hw
  rw [hu] at hc ⊢
  exact ⟨_, words, ⟨hw.bits, hw.cursor, hw.first, hw.reads⟩, hc⟩

/-! ### How a path ends -/

/-- A path passes internal nodes only, until its last bit chooses a missing child (`none`) or a leaf with
its symbol word. -/
inductive PathEnds (a : Vector Node 1024) : Slot → List Bool → Option U16 → Prop where
  | missing {i b} : (slotAt a i).child b = none → PathEnds a i [b] none
  | leaf {i b c} : (slotAt a i).child b = some c → (slotAt a c).leaf = true →
      PathEnds a i [b] (some (slotAt a c).sym)
  | inner {i b c p r} : (slotAt a i).child b = some c → (slotAt a c).leaf = false → PathEnds a c p r →
      PathEnds a i (b :: p) r

section
variable {a : Vector Node 1024} {i : Slot} {p : List Bool} {r : Option U16}

theorem PathEnds.length_pos (h : PathEnds a i p r) : 1 ≤ p.length := by
  cases h <;> simp

theorem pathEnds_of_fallsOff (h : fallsOff a i p = true) : PathEnds a i p none := by
  induction p generalizing i with
  | nil => cases h
  | cons b p ih =>
    cases hc : (slotAt a i).child b with
    | none =>
      rw [fallsOff_cons_none hc, List.isEmpty_iff] at h
      exact h ▸ .missing hc
    | some c =>
      rw [fallsOff_cons_some hc, Bool.and_eq_true, Bool.not_eq_true'] at h
      exact .inner hc h.1 (ih h.2)

theorem pathEnds_some_iff {w : U16} : PathEnds a i p (some w) ↔ lookup a i p = some w := by
  constructor
  · intro h
    generalize hr : some w = r at h
    induction h with
    | missing => cases hr
    | leaf hc hleaf => rw [lookup_cons_some hc, hleaf]; rfl
    | inner hc hleaf _ ih => rw [lookup_cons_some hc, hleaf]; exact ih hr
  · intro h
    induction p generalizing i with
    | nil => cases h
    | cons b p ih =>
      cases hc : (slotAt a i).child b with
      | none => simp [lookup, hc] at h
      | some c =>
        rw [lookup_cons_some hc] at h
        cases hleaf : (slotAt a c).leaf with
        | false => rw [hleaf] at h; exact .inner hc hleaf (ih h)
        | true =>
          cases p with
          | nil => rw [hleaf] at h; cases h; exact .leaf hc hleaf
          | cons b' p => simp [hleaf] at h

end

/-! ### What a walk that succeeds has consumed (42 R160 to R162) -/

/-- A walk that succeeds consumes the bits of a path that ends at the leaf found. -/
theorem tdWalk_consumes {n : Nat} {s t : State} (hs : WindowOk s) (h : tdWalk n s = .ok t) :
    ∃ path words, path.length ≤ n ∧ Consumes s path words t ∧
      PathEnds s.arena s.node path (some (fetchedWord t)) := by
  induction n generalizing s with
  | zero => cases h
  | succ n ih =>
    cases hstep : tdStep s with
    | error e => rw [tdWalk_fail hstep] at h; cases h
    | ok u =>
      obtain ⟨b, words, hu, hc⟩ := hs.step_consumes hstep
      have harena := tdStep_arena hstep
      cases hleaf : u.leafFlag u.node with
      | true =>
        rw [tdWalk_leaf hstep hleaf] at h
        cases h
        rw [State.leafFlag, harena] at hleaf
        refine ⟨[b], words, by simp, ⟨hu.bits, hu.cursor, hu.first, hu.reads⟩, ?_⟩
        rw [fetchedWord, harena]
        exact .leaf hc hleaf
      | false =>
        rw [tdWalk_inner hstep hleaf] at h
        obtain ⟨path, words', hlength, ht, hend⟩ := ih (tdStep_windowOk hs hstep) h
        rw [State.leafFlag, harena] at hleaf
        rw [harena] at hend
        exact ⟨b :: path, words ++ words', by simpa using hlength, hu.trans ht, .inner hc hleaf hend⟩

/-- NODE is no part of the window. -/
theorem WindowOk.atNode {s : State} (h : WindowOk s) (c : Slot) : WindowOk { s with node := c } :=
  h.congr rfl rfl rfl rfl

/-- Settles O8: the levels' bits make the path, and 15 bits are too few for a second refill. -/
theorem walkConsumesExactlyOneCode : Obligations.WalkConsumesExactlyOneCode := by
  intro s t hs h
  obtain ⟨path, words, hlength, ht, hend⟩ := tdWalk_consumes (hs.atNode 0) h
  have hwords : words.length ≤ 1 := ht.words_length_le (hs.atNode 0) (tdDecode_windowOk hs h) hlength
  refine ⟨path, words, hend.length_pos, hlength, pathEnds_some_iff.1 hend, ht.bits, ?_, ht.cursor,
    (tdDecode_ok h).1⟩
  obtain hnil | ⟨w, rfl⟩ := (Nat.le_one_iff_eq_zero_or_eq_one.1 hwords).imp List.length_eq_zero_iff.1
    List.length_eq_one_iff.1
  · exact .inl hnil
  · exact .inr ⟨w, rfl, ht.first w rfl⟩

/-! ### A walk along given bits (42 R160, 92 D15) -/

theorem canSkip_mono {m n : Nat} {s : State} (hmn : m ≤ n) (h : canSkip n s = true) : canSkip m s = true := by
  simp only [canSkip, Bool.and_eq_true, Bool.or_eq_true, decide_eq_true_eq] at h ⊢
  obtain ⟨hle, hfull | hread⟩ := h
  · exact ⟨by omega, .inl (by omega)⟩
  · exact ⟨by omega, .inr hread⟩

section
variable {s : State} {b : Bool} {p : List Bool}

theorem WindowOk.top_bit (hs : WindowOk s) (hbits : b :: p <+: pendingBits s) : s.mask.getLsbD 31 = b := by
  obtain ⟨rest, hrest⟩ := hbits
  have htop := hs.take_one_pendingBits
  rw [← hrest] at htop
  exact (List.cons.inj htop).1.symm

/-- A level whose bit chooses no child. -/
theorem WindowOk.level_missing (hs : WindowOk s) (hbits : b :: p <+: pendingBits s)
    (hskip : canSkip 1 s = true) (hc : (slotAt s.arena s.node).child b = none) :
    tdStep s = .error .invalidTrieWalk := by
  obtain ⟨w, hw⟩ := brSkip_of_canSkip hskip
  exact tdStep_missing hw (by rw [hs.top_bit hbits, hc])

/-- A level at the first bit of a path has taken the walk to the slot `c`, with the path's rest `p` next. -/
structure LevelTo (s : State) (c : Slot) (p : List Bool) (u : State) : Prop where
  step : tdStep s = .ok u
  arena : u.arena = s.arena
  node : u.node = c
  window : WindowOk u
  bits : p <+: pendingBits u
  skip : canSkip p.length u = canSkip (p.length + 1) s

theorem WindowOk.level_child (hs : WindowOk s) (hbits : b :: p <+: pendingBits s) (hp : p.length < 15)
    (hskip : canSkip 1 s = true) {c : Slot} (hc : (slotAt s.arena s.node).child b = some c) :
    ∃ u, LevelTo s c p u := by
  obtain ⟨w, hw⟩ := brSkip_of_canSkip hskip
  have hstep := tdStep_child hw (by rw [hs.top_bit hbits, hc])
  have hwindow := tdStep_windowOk hs hstep
  obtain ⟨b', words, hu, -⟩ := hs.step_consumes hstep
  have hrest : b :: p <+: [b'] ++ pendingBits { w with node := c } :=
    hu.bits ▸ hbits.trans (List.prefix_append ..)
  refine ⟨_, hstep, tdStep_arena hstep, rfl, hwindow, (List.cons_prefix_cons.1 hrest).2, ?_⟩
  rw [hu.canSkip_eq hs hwindow (by rw [List.length_singleton]; omega), List.length_singleton, Nat.add_comm]

theorem LevelTo.leafFlag_eq {c : Slot} {u : State} (h : LevelTo s c p u) :
    u.leafFlag u.node = (slotAt s.arena c).leaf := by rw [State.leafFlag, h.arena, h.node]

end

/-- How a walk ends along bits whose path ends with `r`: BitUnderflow where the bits cannot be skipped
(`can`), else InvalidTrieWalk at the missing child, or the leaf's word. -/
def WalkEnds (can : Bool) (r : Option U16) (x : Except ErrClass State) : Prop :=
  match can, r with
  | false, _ => x = .error .bitUnderflow
  | true, none => x = .error .invalidTrieWalk
  | true, some w => ∃ t, x = .ok t ∧ fetchedWord t = w

section
variable {s : State} {path : List Bool} {r : Option U16} {k : Nat}

/-- Where the first bit cannot be skipped, neither can the path, and the first level fails. -/
theorem walkEnds_of_canSkip_one (hpos : 1 ≤ path.length)
    (h : canSkip 1 s = true → WalkEnds (canSkip path.length s) r (tdWalk (path.length + k) s)) :
    WalkEnds (canSkip path.length s) r (tdWalk (path.length + k) s) := by
  cases hskip1 : canSkip 1 s with
  | true => exact h hskip1
  | false =>
    have hskip : canSkip path.length s = false :=
      Bool.eq_false_iff.2 fun hskip => Bool.eq_false_iff.1 hskip1 (canSkip_mono hpos hskip)
    obtain ⟨n, hn⟩ := Nat.exists_eq_add_of_le' (hpos.trans (Nat.le_add_right _ k))
    rw [hskip, hn]
    exact tdWalk_fail (tdStep_of_not_canSkip hskip1)

/-- A walk with enough levels follows the bits to the end of their path. -/
theorem PathEnds.walkEnds (h : PathEnds s.arena s.node path r) (hs : WindowOk s) (hlength : path.length ≤ 15)
    (hbits : path <+: pendingBits s) :
    WalkEnds (canSkip path.length s) r (tdWalk (path.length + k) s) := by
  generalize harena : s.arena = a, hnode : s.node = i at h
  induction h generalizing s with
  | missing hc =>
    subst harena hnode
    refine walkEnds_of_canSkip_one (by simp) fun hskip => ?_
    rw [List.length_singleton, hskip, Nat.add_comm]
    exact tdWalk_fail (hs.level_missing hbits hskip hc)
  | leaf hc hleaf =>
    subst harena hnode
    refine walkEnds_of_canSkip_one (by simp) fun hskip => ?_
    obtain ⟨u, hu⟩ := hs.level_child hbits (by simp) hskip hc
    rw [List.length_singleton, hskip, Nat.add_comm]
    refine ⟨_, tdWalk_leaf hu.step (hu.leafFlag_eq.trans hleaf), ?_⟩
    rw [fetchedWord, hu.arena, hu.node]
  | inner hc hleaf _ ih =>
    subst harena hnode
    refine walkEnds_of_canSkip_one (by simp) fun hskip => ?_
    obtain ⟨u, hu⟩ := hs.level_child hbits (by simpa using hlength) hskip hc
    rw [List.length_cons, Nat.succ_add, ← hu.skip, tdWalk_inner hu.step (hu.leafFlag_eq.trans hleaf)]
    exact ih hu.window (by rw [List.length_cons] at hlength; omega) hu.bits hu.arena hu.node

theorem PathEnds.decodeEnds (h : PathEnds s.arena 0 path r) (hs : WindowOk s) (hlength : path.length ≤ 15)
    (hbits : path <+: pendingBits s) : WalkEnds (canSkip path.length s) r (tdDecode s) := by
  have hends := PathEnds.walkEnds (s := { s with node := 0 }) (k := 15 - path.length) h (hs.atNode 0)
    hlength hbits
  rwa [Nat.add_sub_of_le hlength] at hends

end

/-- Settles O9: the path is one that ends at a leaf. -/
theorem walkFindsTheSymbolOfTheNextBits : Obligations.WalkFindsTheSymbolOfTheNextBits := by
  intro s path w hs hlength hlookup hbits hskip
  have hends := (pathEnds_some_iff.2 hlookup).decodeEnds hs hlength hbits
  rwa [hskip] at hends

/-- Settles O60: at a missing child the walk has skipped all the bits, and where it cannot, the path's end
makes no difference. -/
theorem walkToAMissingChildFails : Obligations.WalkToAMissingChildFails := by
  refine fun s path hs hlength hbits => ⟨fun hfalls hskip => ?_, fun hend hskip => ?_⟩
  · have hends := (pathEnds_of_fallsOff hfalls).decodeEnds hs hlength hbits
    rwa [hskip] at hends
  · obtain ⟨r, hpath⟩ : ∃ r, PathEnds s.arena 0 path r := by
      obtain hfalls | hleaf := hend
      · exact ⟨none, pathEnds_of_fallsOff hfalls⟩
      · obtain ⟨w, hw⟩ := Option.isSome_iff_exists.1 hleaf
        exact ⟨some w, pathEnds_some_iff.2 hw⟩
    have hends := hpath.decodeEnds hs hlength hbits
    rwa [hskip] at hends

end Sys2Proof.Machine
end

section
/-! PROOFS. The copy loop, said once: the bytes it appends, and its two failures (43 R180 to R182). -/
namespace Sys2Proof.Machine

/-! ### The repeated pattern (43 R182) -/

@[simp] theorem length_backCopy (out : List Byte) (d n : Nat) : (backCopy out d n).length = n := by
  simp [backCopy]

theorem getElem?_backCopy {out : List Byte} {d n k : Nat} (hd : 1 ≤ d) (hle : d ≤ out.length)
    (hk : k < n) : (backCopy out d n)[k]? = out[out.length - d + k % d]? := by
  have hin : out.length - d + k % d < out.length := by
    have := Nat.mod_lt k hd
    omega
  simp [backCopy, hk, hin]

/-- The first byte of the pattern, and then the pattern of OUT with that byte appended: its source has
moved on by one, and after `d` bytes it reads the bytes this copy appended. -/
theorem backCopy_succ {out : List Byte} {d n : Nat} (hd : 1 ≤ d) (hle : d ≤ out.length) :
    backCopy out d (n + 1) = out.getD (out.length - d) 0 ::
      backCopy (out ++ [out.getD (out.length - d) 0]) d n := by
  rw [backCopy, List.range_succ_eq_map, List.map_cons, List.map_map, Nat.zero_mod, Nat.add_zero, backCopy]
  congr 1
  refine List.map_congr_left fun k _ => ?_
  have hk := Nat.mod_lt k hd
  rw [Function.comp_apply, List.length_append, List.length_singleton]
  by_cases hwrap : k % d + 1 = d
  · have hmod : k.succ % d = 0 := by rw [Nat.succ_eq_add_one, ← Nat.mod_add_mod, hwrap, Nat.mod_self]
    rw [hmod, show out.length + 1 - d + k % d = out.length by omega]
    simp
  · have hmod : k.succ % d = k % d + 1 := by
      rw [Nat.succ_eq_add_one, ← Nat.mod_add_mod, Nat.mod_eq_of_lt (by omega)]
    have hin : out.length - d + (k % d + 1) < out.length := by omega
    rw [hmod, show out.length + 1 - d + k % d = out.length - d + (k % d + 1) by omega]
    simp [List.getElem?_append_left, hin]

/-! ### One copied byte -/

/-- `s` after one turn of the loop that succeeds: the byte `d` back is appended. -/
def copied (d : Nat) (s : State) : State :=
  { s with out := s.out ++ [s.out.getD (s.out.length - d) 0], copyLeft := s.copyLeft - 1 }

theorem hasRoom_mono {s : State} {m n : Nat} (hmn : m ≤ n) (h : hasRoom s n = true) :
    hasRoom s m = true :=
  hasRoom_iff.2 fun cap hcap => by
    have := hasRoom_iff.1 h cap hcap
    omega

/-- A copied byte uses up the room of one. -/
theorem hasRoom_copied (d n : Nat) (s : State) : hasRoom (copied d s) n = hasRoom s (n + 1) := by
  rw [Bool.eq_iff_iff, hasRoom_iff, hasRoom_iff]
  simp [copied, Nat.add_assoc, Nat.add_comm 1 n]

theorem le_length_copied {d : Nat} {s : State} (h : d ≤ s.out.length) :
    d ≤ (copied d s).out.length := by
  rw [copied, List.length_append]; omega

theorem outRead_back {d : Nat} {s : State} (hd : 1 ≤ d) (hle : d ≤ s.out.length) :
    outRead s ((s.outLen : Int) - d) = some (s.out.getD (s.out.length - d) 0) := by
  have hindex : ((s.out.length : Int) - d).toNat = s.out.length - d := by omega
  refine outRead_eq_some.2 ⟨by rw [State.outLen]; omega, ?_⟩
  rw [State.outLen, hindex, List.getD_eq_getElem?_getD, List.getElem?_eq_getElem (by omega)]
  rfl

theorem outRead_before_start {d : Nat} {s : State} (h : s.out.length < d) :
    outRead s ((s.outLen : Int) - d) = none := if_pos (by rw [State.outLen]; omega)

theorem copyByte_of_room {d : Nat} {s : State} (hd : 1 ≤ d) (hle : d ≤ s.out.length)
    (hroom : hasRoom s 1 = true) : copyByte d s = .ok (copied d s) :=
  copyByte_eq_ok.2 ⟨_, outRead_back hd hle, hroom, rfl⟩

theorem copyByte_overflow {d : Nat} {s : State} (hd : 1 ≤ d) (hle : d ≤ s.out.length)
    (hroom : hasRoom s 1 = false) : copyByte d s = .error .outputOverflow :=
  copyByte_eq_error.2 (.inr ⟨⟨_, outRead_back hd hle⟩, hroom, rfl⟩)

/-! ### The loop -/

theorem copyLoop_of_room {d n : Nat} {s : State} (hd : 1 ≤ d) (hle : d ≤ s.out.length)
    (hroom : hasRoom s n = true) :
    copyLoop n d s = .ok { s with
      out := s.out ++ backCopy s.out d n, copyLeft := s.copyLeft - BitVec.ofNat 32 n } := by
  induction n generalizing s with
  | zero => simp [copyLoop_zero, backCopy]
  | succ n ih =>
    rw [copyLoop_succ, copyByte_of_room hd hle (hasRoom_mono (by omega) hroom), except_ok_bind,
      ih (le_length_copied hle) (by rw [hasRoom_copied]; exact hroom), backCopy_succ hd hle]
    simp [copied, BitVec.sub_sub, BitVec.ofNat_add, BitVec.add_comm]

/-- The room runs out in one of the turns, and every turn finds its source byte. -/
theorem copyLoop_overflow {d n : Nat} {s : State} (hd : 1 ≤ d) (hle : d ≤ s.out.length)
    (hroom : hasRoom s (n + 1) = false) : copyLoop (n + 1) d s = .error .outputOverflow := by
  induction n generalizing s with
  | zero => rw [copyLoop_succ, copyByte_overflow hd hle hroom, except_error_bind]
  | succ n ih =>
    rw [copyLoop_succ]
    cases hfirst : hasRoom s 1 with
    | false => rw [copyByte_overflow hd hle hfirst, except_error_bind]
    | true =>
      rw [copyByte_of_room hd hle hfirst, except_ok_bind]
      exact ih (le_length_copied hle) (by rw [hasRoom_copied]; exact hroom)

/-! ### COPY -/

theorem copy_of_room {d n : U32} {s : State} (hd : 1 ≤ d.toNat) (hle : d.toNat ≤ s.out.length)
    (hroom : hasRoom s n.toNat = true) :
    copy d n s = .ok { s with out := s.out ++ backCopy s.out d.toNat n.toNat, copyLeft := 0 } := by
  rw [copy, copyLoop_of_room (s := { s with copyLeft := n }) hd hle hroom]
  simp

theorem copy_overflow {d n : U32} {s : State} (hd : 1 ≤ d.toNat) (hle : d.toNat ≤ s.out.length)
    (hn : 1 ≤ n.toNat) (hroom : hasRoom s n.toNat = false) : copy d n s = .error .outputOverflow := by
  rw [copy]
  obtain ⟨m, hm⟩ := Nat.exists_eq_add_of_le' hn
  rw [hm] at hroom ⊢
  exact copyLoop_overflow (s := { s with copyLeft := n }) hd hle hroom

/-- The first turn already reads before the start of OUT. -/
theorem copy_before_start {d n : U32} {s : State} (hn : 1 ≤ n.toNat) (hlt : s.out.length < d.toNat) :
    copy d n s = .error .invalidBackReference := by
  obtain ⟨m, hm⟩ := Nat.exists_eq_add_of_le' hn
  have hread := outRead_before_start (s := { s with copyLeft := n }) hlt
  rw [copy, hm, copyLoop_succ, copyByte_eq_error.2 (.inl ⟨hread, rfl⟩), except_error_bind]

/-- Settles O19: the loop appends the pattern of OUT as it was before the copy. -/
theorem copyRepeatsThePattern : Obligations.CopyRepeatsThePattern := by
  refine fun d n s hd hle hroom =>
    ⟨_, copy_of_room hd hle hroom, rfl, by simp, fun j hj => ?_, fun k hk => ?_⟩
  · exact List.getElem?_append_left hj
  · rw [List.getElem?_append_right (by omega), Nat.add_sub_cancel_left, getElem?_backCopy hd hle hk]

/-- Settles O20: from a source within OUT a copy succeeds or runs out of room. -/
theorem backReferenceFailsExactlyBeforeTheStart : Obligations.BackReferenceFailsExactlyBeforeTheStart := by
  refine fun d n s hd hn => ⟨fun h => ?_, copy_before_start hn⟩
  by_contra hge
  cases hroom : hasRoom s n.toNat with
  | true => rw [copy_of_room hd (not_lt.1 hge) hroom] at h; cases h
  | false => rw [copy_overflow hd (not_lt.1 hge) hn hroom] at h; cases h

end Sys2Proof.Machine
end

section
/-! PROOFS. The tokens without operands, LIT and EOS, and the leaf word that is no token (43 R170 to R172). -/
namespace Sys2Proof.Machine

theorem exec_lit (b : Byte) (s : State) : exec (.lit b) s = conclude s (outAppend b s) := rfl

theorem exec_eos (s : State) : exec .eos s =
    conclude s (if s.cursor = s.inputLength then .ok (decodeSuccess s) else .error .misalignedEnd) := rfl

/-- Settles O11: the room LIT needs is that of one byte. -/
theorem litAppendsItsByte : Obligations.LitAppendsItsByte := by
  refine fun b s => ⟨fun hfits => ?_, fun cap hcap hfull => ?_⟩
  · have hroom : hasRoom s 1 = true := by
      refine hasRoom_iff.2 fun cap hcap => ?_
      obtain hnone | ⟨cap', hcap', hle⟩ := hfits
      · rw [hnone] at hcap; cases hcap
      · rw [hcap'] at hcap; cases hcap; exact hle
    rw [exec_lit, outAppend_eq_ok.2 ⟨hroom, rfl⟩, conclude_ok]
  · have hroom : hasRoom s 1 = false :=
      Bool.eq_false_iff.2 fun h => absurd (hasRoom_iff.1 h cap hcap) (by omega)
    rw [exec_lit, outAppend_eq_error.2 ⟨hroom, rfl⟩, conclude_error]

/-- Settles O12: the two branches of EOS's test. -/
theorem eosSucceedsExactlyAtTheEnd : Obligations.EosSucceedsExactlyAtTheEnd := by
  refine fun s => ⟨fun hend => ?_, fun hend => ?_⟩
  · rw [exec_eos, if_pos hend, conclude_ok, decodeSuccess]
  · rw [exec_eos, if_neg hend, conclude_error]

/-! ### A leaf word above 511 (93 U5) -/

theorem decode_of_ge {w : U16} (h : 512 ≤ w.toNat) : decode w = .error .symbolOutOfRange :=
  if_neg (not_lt.2 h)

theorem engineStep_of_token {s : State} (h : s.phase = .token) : engineStep s = tokenStep s := by
  simp [engineStep, h]

theorem tokenStep_of_decode {s t : State} (h : tdDecode s = .ok t) : tokenStep s = execFetched t := by
  simp [tokenStep, h]

/-- Settles O6: such a word does not decode. -/
theorem symbolAbove511IsRefused : Obligations.SymbolAbove511IsRefused := by
  intro s t hphase hhost hwalk hword
  rw [step_of_host_nil hhost, engineStep_of_token hphase, tokenStep_of_decode hwalk, execFetched,
    decode_of_ge hword]

end Sys2Proof.Machine
end

section
/-! PROOFS. The two match tokens: their operands, and how each ends (43 R173 to R183). -/
namespace Sys2Proof.Machine

/-! ### The arms of EXPAND's dispatch (43 R170) -/

theorem exec_matchTok (ob lc : Nibble) (s : State) : exec (.matchTok ob lc) s =
    conclude s (matchDistance (matchFields ob lc s) >>= fun u => finishMatch (shortLength u)) := rfl

theorem exec_matchLong (ob : Nibble) (s : State) : exec (.matchLong ob) s =
    conclude s (matchDistance (matchFields ob 15 s) >>= fun u => longLength u >>= finishMatch) := rfl

/-! ### The distance (43 R174) -/

theorem nextBits_lt {n : Nat} (s : State) (hn : n ≤ 32) : (nextBits n s).toNat < 2 ^ n := by
  rw [nextBits]
  split
  · exact Nat.two_pow_pos n
  · rw [BitVec.toNat_ushiftRight, Nat.shiftRight_eq_div_pow, Nat.div_lt_iff_lt_mul (Nat.two_pow_pos _),
      ← Nat.pow_add, Nat.add_sub_cancel' hn]
    exact s.mask.isLt

theorem distanceOf_nextBits_toNat (ob : Nibble) (s : State) :
    (distanceOf ob (nextBits ob.toNat s)).toNat = matchDist ob s :=
  distanceOf_toNat (nextBits_lt s (by omega))

theorem distanceOf_nextBits (ob : Nibble) (s : State) :
    distanceOf ob (nextBits ob.toNat s) = BitVec.ofNat 32 (matchDist ob s) := by
  rw [← distanceOf_nextBits_toNat, BitVec.ofNat_toNat, BitVec.setWidth_eq]

theorem matchDist_pos (ob : Nibble) (s : State) : 1 ≤ matchDist ob s :=
  Nat.le_add_right_of_le (Nat.two_pow_pos ob.toNat)

theorem toNat_ofNat_matchDist (ob : Nibble) (s : State) :
    (BitVec.ofNat 32 (matchDist ob s)).toNat = matchDist ob s := by
  rw [← distanceOf_nextBits, distanceOf_nextBits_toNat]

/-- A peek answers the next bits, or the window holds too few of them. -/
theorem brPeek_cases (n : Nat) (s : State) : brPeek n s = .ok (nextBits n s) ∨
    (availNum s < n ∧ brPeek n s = .error .bitUnderflow) := by
  by_cases h0 : n = 0
  · exact .inl (brPeek_eq_ok.2 (.inl ⟨h0, if_pos h0⟩))
  · by_cases hle : (n : Int) ≤ availNum s
    · exact .inl (brPeek_eq_ok.2 (.inr ⟨h0, hle, if_neg h0⟩))
    · exact .inr ⟨not_le.1 hle, brPeek_eq_error.2 ⟨h0, not_le.1 hle, rfl⟩⟩

/-! ### The operands of a match -/

/-- `t` with the operand registers of a match that the window of `s` gives. -/
def withOperands (s : State) (ob lc : Nibble) (mlen : U32) (t : State) : State :=
  { t with
    ob := ob
    lc := lc
    extra := nextBits ob.toNat s
    dist := BitVec.ofNat 32 (matchDist ob s)
    mlen := mlen }

/-- The operands up to the length: they are there, or the window holds too few bits. -/
theorem matchDistance_cases (ob lc : Nibble) (s : State) :
    matchDistance (matchFields ob lc s) = .ok (withOperands s ob lc s.mlen s) ∨
    (availNum s < ob.toNat ∧ matchDistance (matchFields ob lc s) = .error .bitUnderflow) := by
  obtain hpeek | ⟨hlow, hpeek⟩ := brPeek_cases ob.toNat (matchFields ob lc s)
  · left
    rw [withOperands, ← distanceOf_nextBits]
    exact matchDistance_eq_ok.2 ⟨_, hpeek, rfl⟩
  · exact .inr ⟨hlow, except_bind_eq_error.2 (.inl hpeek)⟩

theorem not_canSkip_of_lt {n : Nat} {s : State} (h : availNum s < n) : canSkip n s = false := by
  simp [canSkip, h]

theorem le_availNum_of_canSkip {n : Nat} {s : State} (h : canSkip n s = true) : (n : Int) ≤ availNum s := by
  by_contra hlow
  rw [not_canSkip_of_lt (not_le.1 hlow)] at h; cases h

/-- A skip reads and writes none of the operand registers. -/
theorem brSkip_withOperands {s u w : State} {n : Nat} (ob lc : Nibble) (mlen : U32)
    (h : brSkip n u = .ok w) :
    brSkip n (withOperands s ob lc mlen u) = .ok (withOperands s ob lc mlen w) := by
  obtain ⟨hle, ⟨hfull, rfl⟩ | ⟨hlow, hrefill⟩⟩ := brSkip_eq_ok.1 h
  · exact brSkip_eq_ok.2 ⟨hle, .inl ⟨hfull, rfl⟩⟩
  · obtain ⟨word, hread, rfl⟩ := brRefill_eq_ok.1 hrefill
    exact brSkip_eq_ok.2 ⟨hle, .inr ⟨hlow, brRefill_eq_ok.2 ⟨word, hread, rfl⟩⟩⟩

/-- The copy length does not wrap: a length operand is a byte or a word (30 R91). -/
theorem copyLength_toNat {mlen : U32} (h : mlen.toNat < 65536) :
    (copyLength mlen).toNat = mlen.toNat + 3 := by
  have hthree : (BitVec.ofNat 32 Config.minMatch).toNat = 3 := rfl
  rw [copyLength, BitVec.toNat_add, hthree]
  omega

/-! ### How a match with its operands ends (43 R183 steps 4 and 5)

`s` is the state before the token, which gives the operands, and `u` the one the extra bits are skipped
in: `s` itself, or `s` with CURSOR past the extension bytes. -/

/-- `t` has the OUT and the OUT_CAP of `s`. -/
structure SameOut (s t : State) : Prop where
  out : t.out = s.out
  outCap : t.outCap = s.outCap

theorem SameOut.refl (s : State) : SameOut s s := ⟨rfl, rfl⟩

theorem sameOut_atCursor (s : State) (cursor : U32) : SameOut s { s with cursor := cursor } := ⟨rfl, rfl⟩

theorem SameOut.after_brSkip {s u w : State} {n : Nat} (h : SameOut s u) (hskip : brSkip n u = .ok w) :
    SameOut s w := by
  rw [brSkip_frame hskip]; exact ⟨h.out, h.outCap⟩

theorem SameOut.hasRoom_eq {s t : State} (h : SameOut s t) : hasRoom t = hasRoom s := by
  funext n
  rw [Bool.eq_iff_iff, hasRoom_iff, hasRoom_iff, h.out, h.outCap]

section
variable {s u : State} {ob lc : Nibble} {mlen : U32}

theorem finishMatch_underflow (hskip : canSkip ob.toNat u = false) :
    finishMatch (withOperands s ob lc mlen u) = .error .bitUnderflow :=
  except_bind_eq_error.2 (.inl (brSkip_eq_error.2 ⟨hskip, rfl⟩))

variable (hsame : SameOut s u) (hskip : canSkip ob.toNat u = true)
include hsame hskip

/-- After the skip the rest is the copy, over the window `w` and the OUT of before. -/
theorem finishMatch_of_canSkip : ∃ w, brSkip ob.toNat u = .ok w ∧
    SameOut s (withOperands s ob lc mlen w) ∧
    finishMatch (withOperands s ob lc mlen u) =
      copy (BitVec.ofNat 32 (matchDist ob s)) (copyLength mlen) (withOperands s ob lc mlen w) := by
  obtain ⟨w, hw⟩ := brSkip_of_canSkip hskip
  have hwsame := hsame.after_brSkip hw
  have hskipped : skipExtra (withOperands s ob lc mlen u) = .ok (withOperands s ob lc mlen w) :=
    brSkip_withOperands ob lc mlen hw
  refine ⟨w, hw, ⟨hwsame.out, hwsame.outCap⟩, ?_⟩
  rw [finishMatch, hskipped, except_ok_bind]
  rfl

variable (hmlen : mlen.toNat < 65536)
include hmlen

theorem finishMatch_backReference (hlt : s.out.length < matchDist ob s) :
    finishMatch (withOperands s ob lc mlen u) = .error .invalidBackReference := by
  obtain ⟨w, -, hwsame, hfinish⟩ := finishMatch_of_canSkip (lc := lc) (mlen := mlen) hsame hskip
  rw [hfinish]
  refine copy_before_start (by rw [copyLength_toNat hmlen]; omega) ?_
  rwa [toNat_ofNat_matchDist, hwsame.out]

variable (hle : matchDist ob s ≤ s.out.length)
include hle

theorem finishMatch_overflow (hroom : hasRoom s (mlen.toNat + 3) = false) :
    finishMatch (withOperands s ob lc mlen u) = .error .outputOverflow := by
  obtain ⟨w, -, hwsame, hfinish⟩ := finishMatch_of_canSkip (lc := lc) (mlen := mlen) hsame hskip
  rw [hfinish]
  refine copy_overflow ?_ ?_ ?_ ?_
  · rw [toNat_ofNat_matchDist]; exact matchDist_pos ob s
  · rwa [toNat_ofNat_matchDist, hwsame.out]
  · rw [copyLength_toNat hmlen]; omega
  · rwa [copyLength_toNat hmlen, hwsame.hasRoom_eq]

theorem finishMatch_completes (hroom : hasRoom s (mlen.toNat + 3) = true) :
    ∃ w, brSkip ob.toNat u = .ok w ∧
      finishMatch (withOperands s ob lc mlen u) = .ok (afterMatch w s ob lc mlen) := by
  obtain ⟨w, hw, hwsame, hfinish⟩ := finishMatch_of_canSkip (lc := lc) (mlen := mlen) hsame hskip
  refine ⟨w, hw, ?_⟩
  rw [hfinish, copy_of_room, toNat_ofNat_matchDist, copyLength_toNat hmlen, hwsame.out]
  · rfl
  · rw [toNat_ofNat_matchDist]; exact matchDist_pos ob s
  · rwa [toNat_ofNat_matchDist, hwsame.out]
  · rwa [copyLength_toNat hmlen, hwsame.hasRoom_eq]

end

/-! ### MATCH (43 R175) -/

theorem toNat_lc (lc : Nibble) : (lc.setWidth 32 : U32).toNat = lc.toNat :=
  BitVec.toNat_setWidth_of_le (by decide)

/-- MATCH is its operands and the end of a match; without the bits it underflows. -/
theorem exec_matchTok_cases (ob lc : Nibble) (s : State) :
    exec (.matchTok ob lc) s = conclude s (finishMatch (withOperands s ob lc (lc.setWidth 32) s)) ∨
    (availNum s < ob.toNat ∧ exec (.matchTok ob lc) s = .next (abort .bitUnderflow s)) := by
  rw [exec_matchTok]
  obtain hdist | ⟨hlow, hdist⟩ := matchDistance_cases ob lc s
  · left; rw [hdist, except_ok_bind]; rfl
  · right; rw [hdist, except_error_bind, conclude_error]; exact ⟨hlow, rfl⟩

theorem exec_matchTok_of_canSkip {ob : Nibble} (lc : Nibble) {s : State} (h : canSkip ob.toNat s = true) :
    exec (.matchTok ob lc) s = conclude s (finishMatch (withOperands s ob lc (lc.setWidth 32) s)) :=
  (exec_matchTok_cases ob lc s).resolve_right fun ⟨hlow, _⟩ =>
    absurd (le_availNum_of_canSkip h) (not_le.2 hlow)

theorem lc_lt (lc : Nibble) : (lc.setWidth 32 : U32).toNat < 65536 := by rw [toNat_lc]; omega

/-- Settles O13: the length operand is LC, and the rest is the end of a match. -/
theorem matchCopiesItsBytes : Obligations.MatchCopiesItsBytes := by
  intro ob lc s _ hskip hle hroom
  rw [← toNat_lc] at hroom
  obtain ⟨w, hw, hfinish⟩ := finishMatch_completes (lc := lc) (.refl s) hskip (lc_lt lc) hle hroom
  exact ⟨w, hw, by rw [exec_matchTok_of_canSkip lc hskip, hfinish, conclude_ok]⟩

/-- Settles O15: the window's failure comes first, then the failures of the copy. -/
theorem matchFailsInOrder : Obligations.MatchFailsInOrder := by
  refine fun ob lc s _ => ⟨fun hskip => ?_, fun hskip hlt => ?_, fun hskip hle hroom => ?_⟩
  · obtain hexec | ⟨-, hexec⟩ := exec_matchTok_cases ob lc s
    · rw [hexec, finishMatch_underflow hskip, conclude_error]
    · exact hexec
  · rw [exec_matchTok_of_canSkip lc hskip, finishMatch_backReference (.refl s) hskip (lc_lt lc) hlt,
      conclude_error]
  · rw [← toNat_lc] at hroom
    rw [exec_matchTok_of_canSkip lc hskip, finishMatch_overflow (.refl s) hskip (lc_lt lc) hle hroom,
      conclude_error]

/-! ### MATCH_LONG (43 R176 to R178, 30 R91) -/

theorem longLength_of_short {s u : State} (h : extByte s = .ok u) (hm : u.mlen ≠ 270) :
    longLength s = .ok u := by
  rw [longLength, h, except_ok_bind]; exact if_neg hm

theorem longLength_of_escape {s u : State} (h : extByte s = .ok u) (hm : u.mlen = 270) :
    longLength s = extWord u := by
  rw [longLength, h, except_ok_bind]; exact if_pos hm

theorem toNat_cursor_add_one {s : State} {b : Byte} (h : memRead1 s s.cursor.toNat = some b) :
    (s.cursor + 1).toNat = s.cursor.toNat + 1 := by
  have hin := (readable_iff.1 (memRead1_eq_some.1 h).1).1
  have hlength := s.inputLength.isLt
  have hone : (1 : U32).toNat = 1 := rfl
  rw [BitVec.toNat_add, hone]
  omega

/-- After E1 = 255 the word at the next byte decides. -/
theorem longLength_of_255 {s : State} (h : memRead1 s s.cursor.toNat = some 255) :
    longLength s = orRaise (memRead2 s (s.cursor.toNat + 1)) .truncatedExtraLength >>= fun e2 =>
      .ok { s with mlen := e2.setWidth 32, cursor := s.cursor + 3 } := by
  rw [longLength_of_escape (extByte_eq_ok.2 ⟨255, h, rfl⟩) (byteLength_eq_escape.2 rfl), extWord]
  simp only [toNat_cursor_add_one h, BitVec.add_assoc]
  rfl

theorem longLength_of_operand {s : State} {cursor mlen : U32} (h : LongOperand s cursor mlen) :
    longLength s = .ok { s with mlen := mlen, cursor := cursor } := by
  obtain ⟨e1, hread, hne, rfl, rfl⟩ | ⟨hread, e2, hread2, rfl, rfl⟩ := h
  · exact longLength_of_short (extByte_eq_ok.2 ⟨e1, hread, rfl⟩) fun h => hne (byteLength_eq_escape.1 h)
  · rw [longLength_of_255 hread, hread2, orRaise_some, except_ok_bind]

theorem longLength_truncated {s : State} (h : memRead1 s s.cursor.toNat = none ∨
    (memRead1 s s.cursor.toNat = some 255 ∧ memRead2 s (s.cursor.toNat + 1) = none)) :
    longLength s = .error .truncatedExtraLength := by
  obtain hread | ⟨hread, hread2⟩ := h
  · rw [longLength, extByte, hread, orRaise_none, except_error_bind, except_error_bind]
  · rw [longLength_of_255 hread, hread2, orRaise_none, except_error_bind]

theorem LongOperand.mlen_lt {s : State} {cursor mlen : U32} (h : LongOperand s cursor mlen) :
    mlen.toNat < 65536 := by
  obtain ⟨e1, -, -, -, rfl⟩ | ⟨-, e2, -, -, rfl⟩ := h
  · have hfifteen : (15 : U32).toNat = 15 := rfl
    rw [BitVec.toNat_add, BitVec.toNat_setWidth_of_le (by decide), hfifteen]
    omega
  · rw [BitVec.toNat_setWidth_of_le (by decide)]
    exact e2.isLt

/-- The region reads look at no operand register. -/
theorem memRead1_withOperands (s u : State) (ob lc : Nibble) (mlen : U32) :
    memRead1 (withOperands s ob lc mlen u) = memRead1 u := memRead1_congr rfl rfl rfl rfl

theorem memRead2_withOperands (s u : State) (ob lc : Nibble) (mlen : U32) :
    memRead2 (withOperands s ob lc mlen u) = memRead2 u := memRead2_congr (memRead1_withOperands ..)

theorem longOperand_withOperands (s u : State) (ob lc : Nibble) (m cursor mlen : U32) :
    LongOperand (withOperands s ob lc m u) cursor mlen ↔ LongOperand u cursor mlen := by
  rw [LongOperand, memRead1_withOperands, memRead2_withOperands]; rfl

theorem exec_matchLong_of_bits {ob : Nibble} {s : State} (h : (ob.toNat : Int) ≤ availNum s) :
    exec (.matchLong ob) s =
      conclude s (longLength (withOperands s ob 15 s.mlen s) >>= finishMatch) := by
  have hdist := (matchDistance_cases ob 15 s).resolve_right fun ⟨hlow, _⟩ => absurd h (not_le.2 hlow)
  rw [exec_matchLong, hdist, except_ok_bind]

/-- With its bits and extension bytes there, MATCH_LONG is its operands and the end of a match. -/
theorem exec_matchLong_of_operand {ob : Nibble} {s : State} {cursor mlen : U32}
    (h : (ob.toNat : Int) ≤ availNum s) (hlong : LongOperand s cursor mlen) :
    exec (.matchLong ob) s =
      conclude s (finishMatch (withOperands s ob 15 mlen { s with cursor := cursor })) := by
  rw [exec_matchLong_of_bits h, longLength_of_operand ((longOperand_withOperands ..).2 hlong),
    except_ok_bind]
  rfl

/-- Settles O14: the length operand is the extension's, and the rest is the end of a match. -/
theorem matchLongCopiesItsBytes : Obligations.MatchLongCopiesItsBytes := by
  intro ob s cursor mlen hlong hskip hle hroom
  have havail : (ob.toNat : Int) ≤ availNum { s with cursor := cursor } := le_availNum_of_canSkip hskip
  have hexec := exec_matchLong_of_operand (s := s) havail hlong
  obtain ⟨w, hw, hfinish⟩ := finishMatch_completes (lc := 15) (sameOut_atCursor s cursor) hskip
    hlong.mlen_lt hle hroom
  exact ⟨w, hw, by rw [hexec, hfinish, conclude_ok]⟩

/-- Settles O16: the extension reads come before the skip, and the failures of the copy last. -/
theorem matchLongFailsInOrder : Obligations.MatchLongFailsInOrder := by
  refine fun ob s havail => ⟨fun hmissing => ?_, fun cursor mlen hlong => ?_⟩
  · have hlength : longLength (withOperands s ob 15 s.mlen s) = .error .truncatedExtraLength :=
      longLength_truncated (by rwa [memRead1_withOperands, memRead2_withOperands])
    rw [exec_matchLong_of_bits havail, hlength, except_error_bind, conclude_error]
  · rw [exec_matchLong_of_operand havail hlong]
    have hmlen := hlong.mlen_lt
    refine ⟨fun hskip => ?_, fun hskip hlt => ?_, fun hskip hle hroom => ?_⟩
    · rw [finishMatch_underflow hskip, conclude_error]
    · rw [finishMatch_backReference (sameOut_atCursor s cursor) hskip hmlen hlt, conclude_error]
    · rw [finishMatch_overflow (sameOut_atCursor s cursor) hskip hmlen hle hroom, conclude_error]

end Sys2Proof.Machine
end

section
/-! PROOFS. START and its checks (44 R200 to R202), and what taking a failure writes (44 R207). -/
namespace Sys2Proof.Machine

theorem hostMove_start_of_idle {s : State} (offset : Nat) (len : U32) (srcLen : Nat) (h : s.busy = false) :
    hostMove (.start offset len srcLen) s =
      conclude (startLatch offset len srcLen s) (startChecks (startLatch offset len srcLen s)) := by
  simp [hostMove, hostStart, h]

theorem startChecks_tooLarge {s : State} (h : 16777216 < s.inputLength.toNat) :
    startChecks s = .error .inputTooLarge := if_pos h

theorem startChecks_of_le {s : State} (h : s.inputLength.toNat ≤ 16777216) :
    startChecks s = if tableReadable s then .ok s else .error .truncatedTable := by
  rw [startChecks, if_neg (not_lt.2 h)]
  cases tableReadable s <;> rfl

theorem tableReadable_iff {s : State} :
    tableReadable s = true ↔ 256 ≤ s.inputLength.toNat ∧ s.offset + 255 < s.srcLen := by
  simp [tableReadable]

theorem startChecks_eq_ok {s t : State} (h : startChecks s = .ok t) :
    s.inputLength.toNat ≤ 16777216 ∧ tableReadable s = true := by
  by_cases hcap : s.inputLength.toNat ≤ 16777216
  · rw [startChecks_of_le hcap] at h
    split at h
    · rename_i htable; exact ⟨hcap, htable⟩
    · cases h
  · rw [startChecks_tooLarge (not_le.1 hcap)] at h; cases h

section
variable {s : State} {offset : Nat} {len : U32} {srcLen : Nat} {rest : List HostEvent}
  (hhost : s.host = .start offset len srcLen :: rest) (hidle : s.busy = false)
include hhost hidle

/-- A step that takes START outside BUSY is START's checks on the latched arguments. -/
theorem step_of_start : step s = conclude (startLatch offset len srcLen { s with host := rest })
    (startChecks (startLatch offset len srcLen { s with host := rest })) := by
  rw [step_of_host_cons hhost, hostMove_start_of_idle]; exact hidle

theorem step_of_start_tooLarge (hcap : 16777216 < len.toNat) :
    step s = .next (abort .inputTooLarge (startLatch offset len srcLen { s with host := rest })) := by
  rw [step_of_start hhost hidle, startChecks_tooLarge hcap, conclude_error]

theorem step_of_start_readable (hcap : len.toNat ≤ 16777216) (hlow : 256 ≤ len.toNat)
    (hsrc : offset + 255 < srcLen) :
    step s = .next (startLatch offset len srcLen { s with host := rest }) := by
  rw [step_of_start hhost hidle, startChecks_of_le hcap, if_pos (tableReadable_iff.2 ⟨hlow, hsrc⟩),
    conclude_ok]

theorem step_of_start_truncated (hcap : len.toNat ≤ 16777216)
    (htable : len.toNat < 256 ∨ srcLen ≤ offset + 255) :
    step s = .next (abort .truncatedTable (startLatch offset len srcLen { s with host := rest })) := by
  have hmissing : ¬ tableReadable (startLatch offset len srcLen { s with host := rest }) = true := by
    rw [tableReadable_iff, startLatch_inputLength, startLatch_offset, startLatch_srcLen]; omega
  rw [step_of_start hhost hidle, startChecks_of_le hcap, if_neg hmissing, conclude_error]

end

/-- Settles O36: both checks pass, and the step is the latch. -/
theorem startLaunchesADecode : Obligations.StartLaunchesADecode := by
  intro s offset len srcLen rest hhost hidle hlow hcap hsrc
  rw [step_of_start_readable hhost hidle hcap hlow hsrc, startLatch]

/-- Settles O37: the cap is the first check, and the second has another class. -/
theorem startFailsAboveTheInputCap : Obligations.StartFailsAboveTheInputCap := by
  intro s offset len srcLen rest hhost hidle
  refine ⟨fun hcap => ⟨_, step_of_start_tooLarge hhost hidle hcap, rfl, rfl, rfl, rfl⟩, fun hcap => ?_⟩
  by_cases htable : len.toNat < 256 ∨ srcLen ≤ offset + 255
  · exact ⟨_, step_of_start_truncated hhost hidle hcap htable, by rw [abort_errCode]; decide⟩
  · exact ⟨_, step_of_start_readable hhost hidle hcap (by omega) (by omega),
      by rw [startLatch_errCode]; decide⟩

/-- Settles O38: the second check fails. -/
theorem startFailsWithoutTheTable : Obligations.StartFailsWithoutTheTable := by
  intro s offset len srcLen rest hhost hidle hcap htable
  exact ⟨_, step_of_start_truncated hhost hidle hcap htable, rfl, rfl, rfl⟩

/-- Settles O39: START's first test. -/
theorem startWhileBusyIsRefused : Obligations.StartWhileBusyIsRefused := by
  intro s offset len srcLen rest hhost hbusy
  have hbusy : ({ s with host := rest } : State).busy = true := decide_eq_true hbusy
  rw [step_of_host_cons hhost, hostMove, hostStart, if_pos hbusy]

/-- Settles O42: each field is one that a failure writes. -/
theorem failureCompletionEffect : Obligations.FailureCompletionEffect := by
  refine fun e s => ⟨abort_errCode e s, abort_out e s, congrArg List.length (abort_out e s),
    abort_phase e s, congrArg Phase.status (abort_phase e s), ?_, rfl⟩
  rw [hostReadOut_of_not_busy (by simp [State.status, Phase.status]), abort_out]

end Sys2Proof.Machine
end

section
/-! PROOFS. The phases of the engine: the TOKEN step, the transitions of PHASE, and what each phase may change
(44 R203 to R206) -/
namespace Sys2Proof.Machine

/-! ### A step of the TOKEN phase (44 R205) -/

theorem tokenStep_of_error {s : State} {e : ErrClass} (h : tdDecode s = .error e) :
    tokenStep s = .next (abort e s) := by
  simp [tokenStep, h]

theorem execFetched_of_decode {s : State} {i : Instr} (h : decode (fetchedWord s) = .ok i) :
    execFetched s = exec i s := by
  simp [execFetched, h]

theorem step_of_tick {s : State} : step { s with host := .tick :: s.host } = engineStep s := rfl

/-- Settles O5: the two answers of the walk; a tick gives the engine its step. -/
theorem stepExecutesTheDecodedToken : Obligations.StepExecutesTheDecodedToken := by
  intro s hphase
  refine ⟨fun t i hwalk hdecode => ?_, fun e hwalk => ?_⟩
  · have hstep : engineStep s = exec i t := by
      rw [engineStep_of_token hphase, tokenStep_of_decode hwalk, execFetched_of_decode hdecode]
    exact ⟨hstep, fun hhost => (step_of_host_nil hhost).trans hstep, step_of_tick.trans hstep⟩
  · have hstep : engineStep s = .next (abort e s) := by
      rw [engineStep_of_token hphase, tokenStep_of_error hwalk]
    exact ⟨hstep, fun hhost => (step_of_host_nil hhost).trans hstep, step_of_tick.trans hstep⟩

/-! ### The transitions of PHASE (44 R203) -/

theorem engineStep_of_idle {s : State} (h : s.busy = false) : engineStep s = .next s := by
  unfold State.busy State.status at h
  cases hphase : s.phase <;> simp [engineStep, hphase, Phase.status] at h ⊢

theorem busy_eq_false_iff {s : State} : s.busy = false ↔ s.phase ∈ [Phase.idle, .doneOk, .doneErr] := by
  unfold State.busy State.status
  cases s.phase <;> simp [Phase.status]

theorem TokenRun.phase_mem {i : Instr} {s t : State} (h : TokenRun i s t) :
    t.phase ∈ [s.phase, .doneOk, .doneErr] := by
  obtain ⟨e, rfl⟩ | h | rfl := h.ends
  · simp
  · rw [h]; simp
  · simp

theorem tdDecode_phase {s t : State} (h : tdDecode s = .ok t) : t.phase = s.phase := by rw [(tdDecode_ok h).1]

theorem EngineMove.phase_mem {s t : State} (h : EngineMove s t) : t.phase ∈ s.phase.engineMoves := by
  cases h with
  | wait hidle =>
    have hphase := busy_eq_false_iff.1 hidle
    revert hphase
    cases s.phase <;> simp [Phase.engineMoves]
  | fail e hbusy =>
    obtain hphase | hphase | hphase := busy_iff.1 hbusy <;> simp [hphase, Phase.engineMoves]
  | build hphase => simp [hphase, Phase.engineMoves]
  | init hphase => simp [hphase, Phase.engineMoves]
  | token hphase hwalk hrun =>
    have hmem := hrun.phase_mem
    rw [tdDecode_phase hwalk, hphase] at hmem
    rw [hphase]; exact hmem

/-- Settles O40: by each move of the engine, START's checks and the host's store. -/
theorem phasesMoveAsTheTableSays : Obligations.PhasesMoveAsTheTableSays := by
  refine ⟨fun s t h => (engineStep_move h).phase_mem, fun s => engineStep_of_idle,
    fun s t offset len srcLen h => ?_, fun s t a b h => ?_⟩
  · obtain ⟨-, h'⟩ | ⟨hidle, ⟨e, -, h'⟩ | ⟨-, h'⟩⟩ := hostStart_cases offset len srcLen s <;>
      rw [hostMove, h'] at h <;> cases h
    · exact ⟨busy_eq_false_iff.1 hidle, by simp⟩
    · exact ⟨busy_eq_false_iff.1 hidle, by simp⟩
  · obtain h' | h' := hostStore_cases a b s <;> rw [hostMove, h'] at h <;> cases h
    rfl

theorem status_eq_doneOk_iff {s : State} : s.status = .doneOk ↔ s.phase = .doneOk := by
  unfold State.status
  cases s.phase <;> simp [Phase.status]

theorem matchTok_onlyMatch {ob lc : Nibble} {s u t : State}
    (hdist : matchDistance (matchFields ob lc s) = .ok u) (hfinish : finishMatch (shortLength u) = .ok t) : OnlyMatch s t :=
  ((matchDistance_onlyMatch hdist).trans (shortLength_onlyMatch u)).trans (finishMatch_onlyMatch hfinish)

theorem matchLong_onlyMatch {ob : Nibble} {s u v t : State}
    (hdist : matchDistance (matchFields ob 15 s) = .ok u)
    (hlength : longLength u = .ok v) (hfinish : finishMatch v = .ok t) : OnlyMatch s t :=
  ((matchDistance_onlyMatch hdist).trans (longLength_onlyMatch hlength)).trans (finishMatch_onlyMatch hfinish)

/-- Of the tokens only EOS at the end of the input ends a decode in DONE_OK. -/
theorem TokenRun.eos_of_doneOk {i : Instr} {s t : State} (h : TokenRun i s t) (hphase : s.phase ≠ .doneOk)
    (hok : t.phase = .doneOk) : i = .eos ∧ s.cursor = s.inputLength ∧ t = decodeSuccess s := by
  have hgoes (honly : OnlyMatch s t) : False := hphase (by rw [honly] at hok; exact hok)
  cases h with
  | fail => cases hok
  | lit => exact absurd hok hphase
  | eos hend => exact ⟨rfl, hend, rfl⟩
  | matchTok hdist hfinish => exact (hgoes (matchTok_onlyMatch hdist hfinish)).elim
  | matchLong hdist hlength hfinish => exact (hgoes (matchLong_onlyMatch hdist hlength hfinish)).elim

/-- BUSY leads to DONE_OK from TOKEN alone. -/
theorem EngineMove.token_of_doneOk {s t : State} (h : EngineMove s t) (hbusy : s.busy = true)
    (hok : t.phase = .doneOk) : s.phase = .token := by
  have hmem := h.phase_mem
  rw [hok] at hmem
  obtain hphase | hphase | hphase := busy_iff.1 hbusy
  · rw [hphase] at hmem; simp [Phase.engineMoves] at hmem
  · rw [hphase] at hmem; simp [Phase.engineMoves] at hmem
  · exact hphase

/-- Settles O41: the table leaves the TOKEN phase, and there the token that reaches DONE_OK is EOS. -/
theorem onlyEosAtTheEndSucceeds : Obligations.OnlyEosAtTheEndSucceeds := by
  intro s t hbusy h hstatus
  have hok := status_eq_doneOk_iff.1 hstatus
  have hphase := (engineStep_move h).token_of_doneOk hbusy hok
  rw [engineStep_of_token hphase] at h
  obtain ⟨e, -, h'⟩ | ⟨u, hwalk, ⟨-, h'⟩ | ⟨i, hdecode, h'⟩⟩ := tokenStep_cases s <;> rw [h'] at h
  · cases h; cases hok
  · cases h
  · obtain ⟨rfl, hend, rfl⟩ := (exec_tokenRun h).eos_of_doneOk (by simp [tdDecode_phase hwalk, hphase]) hok
    exact ⟨hphase, u, hwalk, hdecode, hend, rfl⟩

/-! ### What each phase may change (44 R204, R205) -/

theorem buildStep_frame {s t : State} (h : buildStep s = .next t) :
    t = { s with phase := t.phase, errCode := t.errCode, out := t.out, cl := t.cl, csl := t.csl,
                 code := t.code, bits := t.bits, nextFree := t.nextFree, arena := t.arena } ∧
    (t.phase = .init → t.errCode = s.errCode ∧ t.out = s.out) := by
  obtain ⟨e, -, h'⟩ | ⟨u, hbuilt, h'⟩ := buildStep_cases s <;> rw [h'] at h <;> cases h
  · exact ⟨rfl, fun hphase => by cases hphase⟩
  · rw [builder_frame hbuilt]; exact ⟨rfl, fun _ => ⟨rfl, rfl⟩⟩

theorem initStep_frame {s t : State} (h : initStep s = .next t) :
    t = { s with phase := t.phase, errCode := t.errCode, out := t.out, mask := t.mask,
                 avail := t.avail, cursor := t.cursor } ∧
    (t.phase = .token → t.errCode = s.errCode ∧ t.out = s.out) := by
  obtain ⟨e, -, h'⟩ | ⟨u, hloaded, h'⟩ := initStep_cases s <;> rw [h'] at h <;> cases h
  · exact ⟨rfl, fun hphase => by cases hphase⟩
  · obtain ⟨w0, w1, -, -, rfl⟩ := brInit_eq_ok.1 hloaded
    exact ⟨rfl, fun _ => ⟨rfl, rfl⟩⟩

theorem TokenRun.errCode_eq {i : Instr} {s t : State} (h : TokenRun i s t) (hphase : t.phase ≠ .doneErr) :
    t.errCode = s.errCode := by
  obtain ⟨e, rfl⟩ | h | rfl := h.ends
  · exact absurd rfl hphase
  · rw [h]
  · rfl

theorem tokenStep_frame {s t : State} (h : tokenStep s = .next t) :
    t = { s with phase := t.phase, errCode := t.errCode, out := t.out, mask := t.mask,
                 avail := t.avail, cursor := t.cursor, node := t.node, sym := t.sym, ob := t.ob,
                 lc := t.lc, extra := t.extra, dist := t.dist, mlen := t.mlen,
                 copyLeft := t.copyLeft } ∧
    (t.phase ≠ .doneErr → t.errCode = s.errCode) := by
  obtain ⟨e, -, h'⟩ | ⟨u, hwalk, ⟨-, h'⟩ | ⟨i, -, h'⟩⟩ := tokenStep_cases s <;> rw [h'] at h
  · cases h; exact ⟨rfl, fun hphase => absurd rfl hphase⟩
  · cases h
  · have hrun := exec_tokenRun h
    have hwalked := (tdDecode_ok hwalk).1
    refine ⟨by rw [hrun.onlyToken, hwalked], fun hphase => ?_⟩
    rw [hrun.errCode_eq hphase, hwalked]

/-- Settles O47: by the frame of each phase's step. -/
theorem phaseStepsLeaveTheRestUnchanged : Obligations.PhaseStepsLeaveTheRestUnchanged := by
  refine fun s t h => ⟨fun hphase => ?_, fun hphase => ?_, fun hphase => ?_⟩
  · rw [engineStep_of_build hphase] at h; exact buildStep_frame h
  · rw [engineStep_of_init hphase] at h; exact initStep_frame h
  · rw [engineStep_of_token hphase] at h; exact tokenStep_frame h

end Sys2Proof.Machine
end

section
/-! PROOFS. The launch checks hold throughout a running decode (44 R201, R202) -/
namespace Sys2Proof.Machine

/-- The engine runs on only in a decode that was running. -/
theorem EngineMove.busy {s t : State} (h : EngineMove s t) (ht : t.busy = true) : s.busy = true := by
  cases h with
  | wait => exact ht
  | fail _ hbusy => exact hbusy
  | build hphase => exact busy_iff.2 (.inl hphase)
  | init hphase => exact busy_iff.2 (.inr (.inl hphase))
  | token hphase => exact busy_iff.2 (.inr (.inr hphase))

theorem busy_abort (e : ErrClass) (s : State) : (abort e s).busy = false := rfl

theorem InputInv.engine {s t : State} (hs : InputInv s) (h : EngineMove s t) : InputInv t := by
  intro ht
  obtain ⟨hcap, htable⟩ := hs (h.busy ht)
  have hsame := h.sameHostSide
  rw [tableReadable_iff] at htable ⊢
  rw [hsame.inputLength, hsame.offset, hsame.srcLen]
  exact ⟨hcap, htable⟩

/-- Settles O52: START checks its arguments, and no other move writes them. -/
theorem stepKeepsTheInputChecked : Obligations.StepKeepsTheInputChecked := by
  intro s t hs h
  obtain ⟨rest, -, hmove⟩ := step_move h
  have hpopped : InputInv { s with host := rest } := hs
  cases hmove with
  | engine hmove => exact hpopped.engine hmove
  | launch _ _ hchecks => exact fun _ => startChecks_eq_ok hchecks
  | launchFail e => intro ht; rw [busy_abort] at ht; cases ht
  | store => exact hs

end Sys2Proof.Machine
end

section
/-! PROOFS. No rule raises OutputOverflow while OUT_CAP is unbounded (44 R208) -/
namespace Sys2Proof.Machine

/-- A rule does not raise OutputOverflow. -/
def NoOverflow {α : Type} (r : Except ErrClass α) : Prop := r ≠ .error .outputOverflow

theorem noOverflow_ok {α : Type} (a : α) : NoOverflow (.ok a) := nofun

theorem NoOverflow.bind {α β : Type} {x : Except ErrClass α} {f : α → Except ErrClass β}
    (hx : NoOverflow x) (hf : ∀ a, x = .ok a → NoOverflow (f a)) : NoOverflow (x >>= f) := by
  intro h
  obtain h | ⟨a, ha, h⟩ := except_bind_eq_error.1 h
  · exact hx h
  · exact hf a ha h

theorem noOverflow_orRaise {α : Type} (r : Option α) {e : ErrClass} (he : e ≠ .outputOverflow) :
    NoOverflow (orRaise r e) := fun h => he (orRaise_eq_error.1 h).2

theorem noOverflow_outAppend {s : State} (b : Byte) (h : s.outCap = none) : NoOverflow (outAppend b s) := by
  intro hraise
  have hfull := (outAppend_eq_error.1 hraise).1
  rw [hasRoom_zero_of_none h] at hfull; cases hfull

theorem noOverflow_copyLoop {n d : Nat} {s : State} (h : s.outCap = none) :
    NoOverflow (copyLoop n d s) := by
  induction n generalizing s with
  | zero => exact noOverflow_ok s
  | succ n ih =>
    refine NoOverflow.bind (.bind (noOverflow_orRaise _ (by decide)) fun b _ =>
      .bind (noOverflow_outAppend b h) fun u _ => noOverflow_ok _) fun u hu => ih ?_
    obtain ⟨b, -, -, rfl⟩ := copyByte_eq_ok.1 hu
    exact h

theorem noOverflow_brSkip (n : Nat) (s : State) : NoOverflow (brSkip n s) := fun h => by
  cases brSkip_error h

theorem noOverflow_finishMatch {s : State} (h : s.outCap = none) : NoOverflow (finishMatch s) := by
  refine .bind (noOverflow_brSkip _ s) fun u hu => noOverflow_copyLoop ?_
  rw [brSkip_frame hu]; exact h

theorem noOverflow_matchDistance (s : State) : NoOverflow (matchDistance s) :=
  .bind (fun h => by cases (brPeek_eq_error.1 h).2.2) fun _ _ => noOverflow_ok _

theorem noOverflow_longLength (s : State) : NoOverflow (longLength s) := by
  refine .bind (.bind (noOverflow_orRaise _ (by decide)) fun _ _ => noOverflow_ok _) fun u _ => ?_
  split
  · exact .bind (noOverflow_orRaise _ (by decide)) fun _ _ => noOverflow_ok _
  · exact noOverflow_ok u

theorem noOverflow_tdDecode (s : State) : NoOverflow (tdDecode s) := fun h => by
  obtain h | h := tdWalk_error h <;> cases h

theorem noOverflow_brInit (s : State) : NoOverflow (brInit s) := fun h => by
  cases (brInit_eq_error.1 h).2

theorem noOverflow_assignAll (l : List CslEntry) (s : State) : NoOverflow (assignAll l s) := by
  induction l generalizing s with
  | nil => exact noOverflow_ok s
  | cons e l ih =>
    exact .bind (.bind (fun h => by cases htInsert_error h) fun u _ => noOverflow_ok _) fun u _ => ih u

theorem noOverflow_builder (s : State) : NoOverflow (builder s) := by
  cases htable : tableReadable s with
  | true =>
    rw [builder_of_readable htable]
    split
    · nofun
    · exact noOverflow_assignAll _ _
  | false => simp [NoOverflow, builder, htExpand, htable]

theorem ErrClass.code_eq_outputOverflow {e : ErrClass} :
    e.code = ErrClass.outputOverflow.code ↔ e = .outputOverflow := by cases e <;> decide

section
variable {s t : State} (hzero : s.errCode = 0)
include hzero

/-- A rule that raises no OutputOverflow and leaves ERR_CODE alone ends a step with another code. -/
theorem conclude_errCode_ne {r : Except ErrClass State} (hraise : NoOverflow r)
    (hkeep : ∀ u, r = .ok u → u.errCode = s.errCode) (h : conclude s r = .next t) :
    t.errCode ≠ ErrClass.outputOverflow.code := by
  obtain hr | ⟨e, he, rfl⟩ := conclude_eq_next.1 h
  · rw [hkeep t hr, hzero]; decide
  · rw [abort_errCode]
    exact fun hcode => hraise (by rw [he, ErrClass.code_eq_outputOverflow.1 hcode])

theorem exec_errCode_ne (i : Instr) (hcap : s.outCap = none) (h : exec i s = .next t) :
    t.errCode ≠ ErrClass.outputOverflow.code := by
  cases i with
  | lit b =>
    refine conclude_errCode_ne hzero (noOverflow_outAppend b hcap) (fun u hu => ?_) h
    rw [(outAppend_eq_ok.1 hu).2]
  | eos =>
    refine conclude_errCode_ne hzero ?_ (fun u hu => ?_) h
    · split <;> nofun
    · split at hu <;> cases hu; rfl
  | matchTok ob lc =>
    refine conclude_errCode_ne hzero
      (.bind (noOverflow_matchDistance _) fun u hu => noOverflow_finishMatch ?_) (fun t ht => ?_) h
    · rw [shortLength_outCap, matchDistance_onlyMatch hu]; exact hcap
    · obtain ⟨u, hdist, hfinish⟩ := except_bind_eq_ok.1 ht
      rw [matchTok_onlyMatch hdist hfinish]
  | matchLong ob =>
    refine conclude_errCode_ne hzero
      (.bind (noOverflow_matchDistance _) fun u hu =>
        .bind (noOverflow_longLength u) fun v hv => noOverflow_finishMatch ?_) (fun t ht => ?_) h
    · rw [longLength_onlyMatch hv, matchDistance_onlyMatch hu]; exact hcap
    · obtain ⟨u, hdist, ht⟩ := except_bind_eq_ok.1 ht
      obtain ⟨v, hlength, hfinish⟩ := except_bind_eq_ok.1 ht
      rw [matchLong_onlyMatch hdist hlength hfinish]

end

/-- Settles O21: only an append raises the class, and without OUT_CAP it always has room. -/
theorem unboundedOutputNeverOverflows : Obligations.UnboundedOutputNeverOverflows := by
  intro s t hcap hzero h
  cases hphase : s.phase
  case build =>
    rw [engineStep_of_build hphase] at h
    refine conclude_errCode_ne hzero (.bind (noOverflow_builder s) fun u _ => noOverflow_ok _)
      (fun v hv => ?_) h
    obtain ⟨u, hu, hv⟩ := except_bind_eq_ok.1 hv
    cases hv; rw [builder_frame hu]
  case init =>
    rw [engineStep_of_init hphase] at h
    refine conclude_errCode_ne hzero (.bind (noOverflow_brInit s) fun u _ => noOverflow_ok _)
      (fun v hv => ?_) h
    obtain ⟨u, hu, hv⟩ := except_bind_eq_ok.1 hv
    obtain ⟨w0, w1, -, -, rfl⟩ := brInit_eq_ok.1 hu
    cases hv; rfl
  case token =>
    rw [engineStep_of_token hphase] at h
    obtain ⟨e, hwalk, h'⟩ | ⟨u, hwalk, ⟨-, h'⟩ | ⟨i, -, h'⟩⟩ := tokenStep_cases s <;> rw [h'] at h
    · exact conclude_errCode_ne (r := .error e) hzero (hwalk ▸ noOverflow_tdDecode s) nofun h
    · cases h
    · have hwalked := (tdDecode_ok hwalk).1
      exact exec_errCode_ne (by rw [hwalked]; exact hzero) i (by rw [hwalked]; exact hcap) h
  all_goals
    rw [engineStep_of_idle (busy_eq_false_iff.2 (by simp [hphase]))] at h
    cases h; rw [hzero]; decide

end Sys2Proof.Machine
end

section
/-! PROOFS. Every decode ends: the engine always answers, and each step of a running decode leaves fewer
(44 R209, 60 R223). -/
namespace Sys2Proof.Machine

/-! ### The engine answers (60 R223) -/

theorem decode_of_lt {w : U16} (h : w.toNat < 512) : ∃ i, decode w = .ok i :=
  ⟨_, decode_eq_ok.2 ⟨h, rfl⟩⟩

theorem tokenStep_answers {s : State} (h : ArenaOk s.arena) : ∃ t, tokenStep s = .next t := by
  cases hwalk : tdDecode s with
  | error e => exact ⟨_, tokenStep_of_error hwalk⟩
  | ok u =>
    have harena : u.arena = s.arena := by rw [(tdDecode_ok hwalk).1]
    obtain ⟨i, hdecode⟩ := decode_of_lt (w := fetchedWord u) (by rw [fetchedWord, harena]; exact h.symbols _)
    rw [tokenStep_of_decode hwalk, execFetched_of_decode hdecode]
    exact exec_answers_next i u

theorem engineStep_answers {s : State} (h : ArenaInv s) : ∃ t, engineStep s = .next t := by
  cases hbusy : s.busy with
  | false => exact ⟨s, engineStep_of_idle hbusy⟩
  | true =>
    obtain hphase | hphase | hphase := busy_iff.1 hbusy
    · rw [engineStep_of_build hphase]
      obtain ⟨e, -, hstep⟩ | ⟨u, -, hstep⟩ := buildStep_cases s
      · exact ⟨_, hstep⟩
      · exact ⟨_, hstep⟩
    · rw [engineStep_of_init hphase]
      obtain ⟨e, -, hstep⟩ | ⟨u, -, hstep⟩ := initStep_cases s
      · exact ⟨_, hstep⟩
      · exact ⟨_, hstep⟩
    · rw [engineStep_of_token hphase]
      exact tokenStep_answers (h.2 (.inr hphase))

/-! ### The bits left -/

/-- The bits of the window and of the region after CURSOR. -/
def bitsLeft (s : State) : Nat := (availNum s).toNat + 8 * (s.inputLength.toNat - s.cursor.toNat)

theorem bitsLeft_pos {s : State} (h : WindowOk s) : 0 < bitsLeft s := by
  have := h.availLow
  rw [bitsLeft]; omega

/-- The bits consumed are those that are no longer left: a word loaded moves from the region to the window. -/
theorem Consumes.bitsLeft_add {s t : State} {p : List Bool} {ws : List U16} (h : Consumes s p ws t)
    (ht : WindowOk t) (hlength : t.inputLength = s.inputLength) : bitsLeft t + p.length = bitsLeft s := by
  have hbits := h.length
  have hcursor := h.cursor
  have hend := ht.cursorHigh
  rw [hlength] at hend
  rw [bitsLeft, bitsLeft, hlength]
  omega

theorem tdDecode_bitsLeft {s t : State} (hs : WindowOk s) (h : tdDecode s = .ok t) :
    bitsLeft t < bitsLeft s := by
  obtain ⟨path, words, -, hconsumes, hpath⟩ := tdWalk_consumes (hs.atNode 0) h
  have hadd := hconsumes.bitsLeft_add (tdDecode_windowOk hs h) (by rw [(tdDecode_ok h).1])
  have hpos := hpath.length_pos
  have hroot : bitsLeft { s with node := 0 } = bitsLeft s := rfl
  omega

theorem brSkip_bitsLeft {n : Nat} {s t : State} (hs : WindowOk s) (hn : n ≤ 15) (h : brSkip n s = .ok t) :
    bitsLeft t ≤ bitsLeft s := by
  obtain ⟨words, hconsumes⟩ := hs.skip_consumes hn h
  have hadd := hconsumes.bitsLeft_add (brSkip_windowOk hs hn h) (by rw [brSkip_frame h])
  omega

/-- CURSOR does not wrap inside the region. -/
theorem cursor_le_add {cursor length : U32} {n : Nat} (h : cursor.toNat + n ≤ length.toNat) :
    cursor.toNat ≤ (cursor + BitVec.ofNat 32 n).toNat := by
  have := length.isLt
  rw [BitVec.toNat_add, BitVec.toNat_ofNat]; omega

theorem bitsLeft_of_cursor_le {s t : State} (havail : t.avail = s.avail)
    (hcursor : s.cursor.toNat ≤ t.cursor.toNat) (hlength : t.inputLength = s.inputLength) :
    bitsLeft t ≤ bitsLeft s := by
  rw [bitsLeft, bitsLeft, availNum, availNum, havail, hlength]; omega

/-- The extension bytes are read from the region, so fewer bits are left after them. -/
theorem longLength_bitsLeft {s t : State} (h : longLength s = .ok t) : bitsLeft t ≤ bitsLeft s := by
  obtain ⟨u, hbyte, h⟩ := except_bind_eq_ok.1 h
  obtain ⟨e1, hread1, rfl⟩ := extByte_eq_ok.1 hbyte
  have hcursor1 := cursor_le_add (n := 1) (readable_iff.1 (memRead1_eq_some.1 hread1).1).1
  split at h
  · obtain ⟨e2, hread2, rfl⟩ := extWord_eq_ok.1 h
    exact bitsLeft_of_cursor_le rfl (hcursor1.trans (cursor_le_add (memRead2_in_region hread2))) rfl
  · cases h; exact bitsLeft_of_cursor_le rfl hcursor1 rfl

theorem matchDistance_bitsLeft {ob lc : Nibble} {s t : State}
    (h : matchDistance (matchFields ob lc s) = .ok t) : bitsLeft t = bitsLeft s := by
  obtain ⟨x, -, rfl⟩ := matchDistance_eq_ok.1 h
  rfl

theorem finishMatch_bitsLeft {s t : State} (hs : WindowOk s) (h : finishMatch s = .ok t) :
    bitsLeft t ≤ bitsLeft s := by
  obtain ⟨u, hskip, hcopy⟩ := except_bind_eq_ok.1 h
  have hskipped : bitsLeft u ≤ bitsLeft s := brSkip_bitsLeft hs (Nat.le_of_lt_succ s.ob.isLt) hskip
  rw [(copyLoop_frame hcopy).1]
  exact hskipped

theorem TokenRun.bitsLeft_le {i : Instr} {s t : State} (h : TokenRun i s t) (hs : WindowOk s) :
    bitsLeft t ≤ bitsLeft s := by
  cases h with
  | fail => exact le_rfl
  | lit => exact le_rfl
  | eos => exact le_rfl
  | @matchTok _ _ _ u _ hdist hfinish =>
    have hu := (matchDistance_windowOk hs hdist).congr (t := shortLength u) rfl rfl rfl rfl
    exact (finishMatch_bitsLeft hu hfinish).trans (matchDistance_bitsLeft hdist).le
  | matchLong hdist hlength hfinish =>
    have hv := longLength_windowOk (matchDistance_windowOk hs hdist) hlength
    exact (finishMatch_bitsLeft hv hfinish).trans
      ((longLength_bitsLeft hlength).trans (matchDistance_bitsLeft hdist).le)

/-- INIT moves the first 32 bits of the stream into the window. -/
theorem brInit_bitsLeft {s t : State} (h : brInit s = .ok t) :
    bitsLeft t = 8 * (s.inputLength.toNat - 256) := by
  obtain ⟨w0, w1, -, hread, rfl⟩ := brInit_eq_ok.1 h
  have hin := memRead2_in_region hread
  have havail : (32 : U32).toInt.toNat = 32 := by decide
  change (32 : U32).toInt.toNat + 8 * (s.inputLength.toNat - 260) = _
  omega

/-! ### The steps left (44 R209) -/

/-- How many more steps a running decode can take at most: each token consumes a bit. -/
def stepsLeft (s : State) : Nat :=
  match s.phase with
  | .build => 2 + 8 * (s.inputLength.toNat - 256)
  | .init => 1 + 8 * (s.inputLength.toNat - 256)
  | _ => bitsLeft s

theorem stepsLeft_of_build {s : State} (h : s.phase = .build) :
    stepsLeft s = 2 + 8 * (s.inputLength.toNat - 256) := by simp [stepsLeft, h]

theorem stepsLeft_of_init {s : State} (h : s.phase = .init) :
    stepsLeft s = 1 + 8 * (s.inputLength.toNat - 256) := by simp [stepsLeft, h]

theorem stepsLeft_of_token {s : State} (h : s.phase = .token) : stepsLeft s = bitsLeft s := by
  simp [stepsLeft, h]

theorem stepsLeft_pos {s : State} (hbusy : s.busy = true) (hs : WindowInv s) : 0 < stepsLeft s := by
  obtain h | h | h := busy_iff.1 hbusy
  · rw [stepsLeft_of_build h]; omega
  · rw [stepsLeft_of_init h]; omega
  · rw [stepsLeft_of_token h]; exact bitsLeft_pos (hs h)

/-- A step of a running decode that goes on leaves fewer steps. -/
theorem EngineMove.stepsLeft_lt {s t : State} (h : EngineMove s t) (hs : WindowInv s)
    (ht : t.busy = true) : stepsLeft t < stepsLeft s := by
  have hlength := h.sameHostSide.inputLength
  cases h with
  | wait hidle => rw [hidle] at ht; cases ht
  | fail => rw [busy_abort] at ht; cases ht
  | build hphase =>
    rw [stepsLeft_of_build hphase, stepsLeft_of_init rfl, hlength]; omega
  | @init _ u hphase hloaded =>
    have hleft := brInit_bitsLeft hloaded
    rw [stepsLeft_of_init hphase, stepsLeft_of_token rfl]
    change bitsLeft u < _
    omega
  | @token i _ u _ hphase hwalk hrun =>
    have hphaseT : t.phase = .token := by
      have hmem := hrun.phase_mem
      rw [tdDecode_phase hwalk, hphase] at hmem
      obtain hend | hend | hend := busy_iff.1 ht <;> simp [hend] at hmem ⊢
    rw [stepsLeft_of_token hphase, stepsLeft_of_token hphaseT]
    exact (hrun.bitsLeft_le (tdDecode_windowOk (hs hphase) hwalk)).trans_lt
      (tdDecode_bitsLeft (hs hphase) hwalk)

/-- A decode that START has accepted or refused, with no host event left. -/
structure Launched (s : State) : Prop where
  host : s.host = []
  notIdle : s.phase ≠ .idle
  window : WindowInv s
  arena : ArenaInv s

theorem EngineMove.launched {s t : State} (h : EngineMove s t) (hs : Launched s) : Launched t where
  host := h.sameHostSide.host.trans hs.host
  notIdle hidle := by
    have hmem := h.phase_mem
    have hphase := hs.notIdle
    rw [hidle] at hmem
    revert hmem hphase
    cases s.phase <;> simp [Phase.engineMoves]
  window := h.windowInv hs.window
  arena := h.arenaInv hs.arena

theorem Launched.ended {s : State} (h : Launched s) (hbusy : s.busy = false) :
    s.status = .doneOk ∨ s.status = .doneErr := by
  rw [status_eq_doneOk_iff, status_eq_doneErr_iff]
  simpa [h.notIdle] using busy_eq_false_iff.1 hbusy

theorem run_succ {n : Nat} {s t : State} (h : step s = .next t) :
    Host.Core.run core (n + 1) s = Host.Core.run core n t := by
  have h : core.step s = .next t := h
  simp only [Host.Core.run, h]

/-- A run as long as the steps left ends the decode. -/
theorem Launched.run_ends {n : Nat} {s : State} (hs : Launched s) (hn : s.busy = true → stepsLeft s ≤ n) :
    ∃ t, Host.Core.run core n s = .next t ∧ (t.status = .doneOk ∨ t.status = .doneErr) := by
  induction n generalizing s with
  | zero =>
    refine ⟨s, rfl, hs.ended (Bool.eq_false_iff.2 fun hbusy => ?_)⟩
    have hpos := stepsLeft_pos hbusy hs.window
    have hzero := hn hbusy
    omega
  | succ n ih =>
    obtain ⟨t, hstep⟩ := engineStep_answers hs.arena
    have hmove := engineStep_move hstep
    rw [run_succ ((step_of_host_nil hs.host).trans hstep)]
    refine ih (hmove.launched hs) fun ht => ?_
    have hlt := hmove.stepsLeft_lt hs.window ht
    have hle := hn (hmove.busy ht)
    omega

/-- START outside BUSY launches a decode, in BUILD or failed. -/
theorem launched_of_start {s : State} {offset : Nat} {len : U32} {srcLen : Nat}
    (hidle : s.busy = false) (hhost : s.host = [.start offset len srcLen]) :
    ∃ t, step s = .next t ∧ Launched t ∧ (t.busy = true → stepsLeft t = 2 + 8 * (len.toNat - 256)) := by
  have hstep := step_of_host_cons hhost
  obtain ⟨hbusy, -⟩ | ⟨-, ⟨e, -, hstart⟩ | ⟨-, hstart⟩⟩ :=
    hostStart_cases offset len srcLen { s with host := [] }
  · exact absurd (hidle.symm.trans hbusy) (by decide)
  · exact ⟨_, hstep.trans hstart, ⟨rfl, nofun, nofun, nofun, nofun⟩, nofun⟩
  · exact ⟨_, hstep.trans hstart, ⟨rfl, nofun, nofun, fun _ => rfl, nofun⟩, fun _ => rfl⟩

/-- Settles O57: the latched decode has 2 + 8 * (INPUT_LENGTH - 256) steps left. -/
theorem everyDecodeEnds : Obligations.EveryDecodeEnds := by
  intro s offset len srcLen hidle hhost
  obtain ⟨t, hstep, ht, hleft⟩ := launched_of_start hidle hhost
  rw [show 3 + 8 * (len.toNat - 256) = (2 + 8 * (len.toNat - 256)) + 1 by omega, run_succ hstep]
  exact ht.run_ends fun hbusy => (hleft hbusy).le

end Sys2Proof.Machine
end

section
/-! PROOFS. Two states that agree on what a rule reads get the same answer from it: the relation, and the
builder (41 R130 to R137). -/
namespace Sys2Proof.Machine

/-- Two answers of a rule that are the same up to a relation between what they answer. -/
inductive SameAnswer {α : Type} (R : α → α → Prop) : Except ErrClass α → Except ErrClass α → Prop where
  | ok {a b : α} (h : R a b) : SameAnswer R (.ok a) (.ok b)
  | error (e : ErrClass) : SameAnswer R (.error e) (.error e)

theorem SameAnswer.bind {α β : Type} {R : α → α → Prop} {Q : β → β → Prop} {x y : Except ErrClass α}
    {f g : α → Except ErrClass β} (hxy : SameAnswer R x y)
    (hfg : ∀ a b, x = .ok a → y = .ok b → R a b → SameAnswer Q (f a) (g b)) :
    SameAnswer Q (x >>= f) (y >>= g) := by
  cases hxy with
  | ok h => exact hfg _ _ rfl rfl h
  | error e => exact .error e

/-- Both rules begin with the same one. -/
theorem SameAnswer.bind_same {α β : Type} {Q : β → β → Prop} {x : Except ErrClass α}
    {f g : α → Except ErrClass β} (hfg : ∀ a, SameAnswer Q (f a) (g a)) :
    SameAnswer Q (x >>= f) (x >>= g) := by
  cases x with
  | ok a => exact hfg a
  | error e => exact .error e

/-! ### The builder (41 R133 to R137) -/

/-- The states agree on what HT_ASSIGN reads. -/
structure SameTrie (s t : State) : Prop where
  code : s.code = t.code
  bits : s.bits = t.bits
  nextFree : s.nextFree = t.nextFree
  arena : s.arena = t.arena

/-- The same slot, in states that agree. -/
def SameSlot (p q : Slot × State) : Prop := p.1 = q.1 ∧ SameTrie p.2 q.2

theorem SameTrie.setChild {s t : State} (h : SameTrie s t) (i : Slot) (b : Bool) (c : Slot) :
    SameTrie (s.setChild i b c) (t.setChild i b c) :=
  { h with arena := by rw [setChild_arena, setChild_arena, h.arena] }

theorem SameTrie.setLeaf {s t : State} (h : SameTrie s t) (i : Slot) (v : Bool) :
    SameTrie (s.setLeaf i v) (t.setLeaf i v) :=
  { h with arena := by rw [setLeaf_arena, setLeaf_arena, h.arena] }

theorem SameTrie.setSym {s t : State} (h : SameTrie s t) (i : Slot) (v : U16) :
    SameTrie (s.setSym i v) (t.setSym i v) :=
  { h with arena := by rw [setSym_arena, setSym_arena, h.arena] }

theorem SameTrie.takeSlot {s t : State} (h : SameTrie s t) :
    SameAnswer SameSlot (takeSlot s) (takeSlot t) := by
  unfold Machine.takeSlot
  simp only [h.nextFree]
  split
  · exact .ok ⟨rfl, { h with nextFree := rfl }⟩
  · exact .error _

theorem SameTrie.reserveLeaf {s t : State} (h : SameTrie s t) (sym : U16) :
    SameAnswer SameSlot (reserveLeaf sym s) (reserveLeaf sym t) := by
  refine h.takeSlot.bind ?_
  rintro ⟨i, u⟩ ⟨_, v⟩ - - ⟨rfl, huv⟩
  exact .ok ⟨rfl, (huv.setSym i sym).setLeaf i true⟩

theorem SameTrie.walkPath {p : List Bool} {i : Slot} {s t : State} (h : SameTrie s t) :
    SameAnswer SameSlot (walkPath p i s) (walkPath p i t) := by
  induction p generalizing i s t with
  | nil => exact .ok ⟨rfl, h⟩
  | cons b p ih =>
    cases hc : (slotAt s.arena i).child b with
    | some c =>
      rw [walkPath_cons_some hc, walkPath_cons_some (h.arena ▸ hc)]
      exact ih h
    | none =>
      rw [walkPath_cons_none hc, walkPath_cons_none (h.arena ▸ hc)]
      refine h.takeSlot.bind ?_
      rintro ⟨c, u⟩ ⟨_, v⟩ - - ⟨rfl, huv⟩
      exact ih ((huv.setChild i b c).setLeaf c false)

theorem SameTrie.htInsert {s t : State} (h : SameTrie s t) (sym : U16) (code : U32) (bits : Nat) :
    SameAnswer SameTrie (htInsert sym code bits s) (htInsert sym code bits t) := by
  refine (h.reserveLeaf sym).bind ?_
  rintro ⟨l, u⟩ ⟨_, v⟩ - - ⟨rfl, huv⟩
  dsimp only
  split
  · exact .error _
  · refine huv.walkPath.bind ?_
    rintro ⟨i, u'⟩ ⟨_, v'⟩ - - ⟨rfl, huv'⟩
    exact .ok (huv'.setChild i _ l)

theorem SameTrie.atEntry {s t : State} (h : SameTrie s t) (e : CslEntry) :
    SameTrie (atEntry e s) (atEntry e t) :=
  { h with code := by rw [Machine.atEntry, Machine.atEntry, h.code, h.bits], bits := rfl }

theorem SameTrie.assignEntry {s t : State} (h : SameTrie s t) (e : CslEntry) :
    SameAnswer SameTrie (assignEntry e s) (assignEntry e t) := by
  have hentry := h.atEntry e
  rw [assignEntry_eq, assignEntry_eq, hentry.code]
  exact (hentry.htInsert _ _ _).bind fun u v _ _ huv => .ok { huv with code := by rw [huv.code] }

theorem SameTrie.assignAll {l : List CslEntry} {s t : State} (h : SameTrie s t) :
    SameAnswer SameTrie (assignAll l s) (assignAll l t) := by
  induction l generalizing s t with
  | nil => exact .ok h
  | cons e l ih => exact (h.assignEntry e).bind fun u v _ _ huv => ih huv

/-! ### The region and the table (20 R61, 30 R81) -/

/-- With no host event left, the states agree on what every phase of a decode reads and on what the host
observes. Of the region they need to agree on no more than what can be read. -/
structure SameDecode (s t : State) : Prop where
  host : s.host = [] ∧ t.host = []
  phase : s.phase = t.phase
  errCode : s.errCode = t.errCode
  out : s.out = t.out
  outCap : s.outCap = t.outCap
  inputLength : s.inputLength = t.inputLength
  reads : memRead1 s = memRead1 t

theorem isSome_memRead1 (s : State) (i : Nat) : (memRead1 s i).isSome = readable s i := by
  unfold memRead1
  cases readable s i <;> rfl

/-- The table is readable where its last byte is. -/
theorem tableReadable_eq_readable (s : State) : tableReadable s = readable s 255 := by
  rw [Bool.eq_iff_iff, tableReadable_iff, readable_iff]; omega

theorem regionByte_eq_of_memRead1_eq {s t : State} {i : Nat} (hs : readable s i = true)
    (h : memRead1 s i = memRead1 t i) : regionByte s i = regionByte t i :=
  (memRead1_eq_some.1 (h.symm.trans (memRead1_eq_some.2 ⟨hs, rfl⟩))).2.symm

section
variable {s t : State} (h : SameDecode s t)
include h

theorem SameDecode.readable_eq (i : Nat) : readable s i = readable t i := by
  rw [← isSome_memRead1, ← isSome_memRead1, h.reads]

theorem SameDecode.tableReadable_eq : tableReadable s = tableReadable t := by
  rw [tableReadable_eq_readable, tableReadable_eq_readable, h.readable_eq]

theorem SameDecode.tableLengths_eq (htable : tableReadable s = true) : tableLengths s = tableLengths t := by
  obtain ⟨hlength, hsrc⟩ := tableReadable_iff.1 htable
  refine Vector.ext fun j hj => ?_
  have hreadable : readable s (j / 2) = true := readable_iff.2 ⟨by omega, by omega⟩
  simp only [tableLengths, Vector.getElem_ofFn]
  rw [regionByte_eq_of_memRead1_eq hreadable (congrFun h.reads _)]

theorem SameDecode.builder (harena : s.arena = t.arena) :
    SameAnswer SameTrie (builder s) (builder t) := by
  cases htable : tableReadable s with
  | false =>
    have htable' := h.tableReadable_eq ▸ htable
    simp only [Machine.builder, htExpand, htable, htable', Bool.false_eq_true, if_false, except_error_bind]
    exact .error _
  | true =>
    rw [builder_of_readable htable, builder_of_readable (h.tableReadable_eq ▸ htable),
      ← h.tableLengths_eq htable]
    split
    · exact .error _
    · have hcsl : (sortedTable s).csl = (sortedTable t).csl := by
        simp only [sortedTable, htSort_csl, h.tableLengths_eq htable]
      rw [htAssign_eq, htAssign_eq, hcsl]
      refine SameTrie.assignAll ⟨rfl, rfl, rfl, ?_⟩
      change ((sortedTable s).setLeaf 0 false).arena = ((sortedTable t).setLeaf 0 false).arena
      rw [setLeaf_arena, setLeaf_arena]
      simp only [sortedTable, htSort_arena, harena]

end

end Sys2Proof.Machine
end

section
/-! PROOFS. Two running decodes over the same region take the same steps (44 R210). -/
namespace Sys2Proof.Machine

/-! ### The window and the walk (40, 42) -/

/-- The states of two decodes that run in the TOKEN phase agree on the trie and the window too. -/
structure SameRun (s t : State) : Prop extends SameDecode s t where
  arena : s.arena = t.arena
  mask : s.mask = t.mask
  avail : s.avail = t.avail
  cursor : s.cursor = t.cursor

theorem SameDecode.reads2 {s t : State} (h : SameDecode s t) : memRead2 s = memRead2 t :=
  (memRead2_congr h.reads.symm).symm

/-- Before BR_INIT the windows need not agree. -/
theorem SameDecode.brInit {s t : State} (h : SameDecode s t) (harena : s.arena = t.arena) :
    SameAnswer SameRun (brInit s) (brInit t) := by
  rw [Machine.brInit, Machine.brInit, h.reads2]
  refine .bind_same fun w0 => ?_
  refine .bind_same fun w1 => ?_
  exact .ok { h with arena := harena, mask := rfl, avail := rfl, cursor := rfl }

section
variable {s t : State} (h : SameRun s t)
include h

theorem SameRun.availNum_eq : availNum s = availNum t := by rw [availNum, availNum, h.avail]

theorem SameRun.brPeek_eq (n : Nat) : brPeek n s = brPeek n t := by
  rw [brPeek, brPeek, h.availNum_eq, h.mask]

theorem SameRun.shiftWindow (n : Nat) : SameRun (shiftWindow n s) (shiftWindow n t) :=
  { h with
    mask := by rw [shiftWindow_mask, shiftWindow_mask, h.mask]
    avail := by rw [shiftWindow_avail, shiftWindow_avail, h.availNum_eq] }

theorem SameRun.brRefill : SameAnswer SameRun (brRefill s) (brRefill t) := by
  rw [Machine.brRefill, Machine.brRefill, h.reads2, h.cursor]
  refine .bind_same fun w => ?_
  exact .ok { h with
    mask := by rw [h.mask, h.availNum_eq]
    avail := by rw [h.availNum_eq]
    cursor := rfl }

theorem SameRun.brSkip (n : Nat) : SameAnswer SameRun (brSkip n s) (brSkip n t) := by
  rw [Machine.brSkip, Machine.brSkip, h.availNum_eq, (h.shiftWindow n).availNum_eq]
  split
  · exact .error _
  · split
    · exact (h.shiftWindow n).brRefill
    · exact .ok (h.shiftWindow n)

end

/-- The walks stand at the same slot. -/
structure SameWalk (s t : State) : Prop extends SameRun s t where
  node : s.node = t.node

theorem SameWalk.tdStep {s t : State} (h : SameWalk s t) : SameAnswer SameWalk (tdStep s) (tdStep t) := by
  rw [Machine.tdStep, Machine.tdStep, h.brPeek_eq]
  refine .bind_same fun b => ?_
  refine (h.toSameRun.brSkip 1).bind fun u v hu hv huv => ?_
  have hnode : u.node = v.node := by rw [brSkip_frame hu, brSkip_frame hv]; exact h.node
  rw [huv.arena, hnode]
  split
  · exact .error _
  · exact .ok { huv with arena := rfl, node := rfl }

theorem SameWalk.tdWalk {n : Nat} {s t : State} (h : SameWalk s t) :
    SameAnswer SameWalk (tdWalk n s) (tdWalk n t) := by
  induction n generalizing s t with
  | zero => exact .error _
  | succ n ih =>
    refine h.tdStep.bind fun u v _ _ huv => ?_
    rw [State.leafFlag, State.leafFlag, huv.arena, huv.node]
    split
    · exact .ok { huv with arena := rfl, node := rfl }
    · exact ih huv

theorem SameRun.tdDecode {s t : State} (h : SameRun s t) :
    SameAnswer SameWalk (tdDecode s) (tdDecode t) :=
  SameWalk.tdWalk { h with node := rfl }

/-! ### The tokens (43) -/

theorem SameDecode.sameOut {s t : State} (h : SameDecode s t) : SameOut s t :=
  ⟨h.out.symm, h.outCap.symm⟩

theorem SameRun.append {s t : State} (h : SameRun s t) (b : Byte) :
    SameRun { s with out := s.out ++ [b] } { t with out := t.out ++ [b] } :=
  { h with out := by rw [h.out] }

theorem SameRun.outAppend {s t : State} (h : SameRun s t) (b : Byte) :
    SameAnswer SameRun (outAppend b s) (outAppend b t) := by
  rw [Machine.outAppend, Machine.outAppend, h.sameOut.hasRoom_eq]
  split
  · exact .ok (h.append b)
  · exact .error _

theorem SameRun.copyByte {s t : State} (h : SameRun s t) (d : Nat) :
    SameAnswer SameRun (copyByte d s) (copyByte d t) := by
  have hread : outRead s = outRead t := by funext j; rw [outRead, outRead, h.out]
  rw [Machine.copyByte, Machine.copyByte, hread, State.outLen, State.outLen, h.out]
  refine .bind_same fun b => ?_
  exact (h.outAppend b).bind fun u v _ _ huv => .ok { huv with }

theorem SameRun.copyLoop {n d : Nat} {s t : State} (h : SameRun s t) :
    SameAnswer SameRun (copyLoop n d s) (copyLoop n d t) := by
  induction n generalizing s t with
  | zero => exact .ok h
  | succ n ih => exact (h.copyByte d).bind fun u v _ _ huv => ih huv

/-- The states agree on the fields and the distance of a match. -/
structure SameDistance (s t : State) : Prop extends SameRun s t where
  ob : s.ob = t.ob
  lc : s.lc = t.lc
  dist : s.dist = t.dist

/-- The states agree on the operands of a match, the length too. -/
structure SameOperands (s t : State) : Prop extends SameDistance s t where
  mlen : s.mlen = t.mlen

theorem SameOperands.finishMatch {s t : State} (h : SameOperands s t) :
    SameAnswer SameRun (finishMatch s) (finishMatch t) := by
  rw [Machine.finishMatch, Machine.finishMatch, skipExtra, skipExtra, h.ob]
  refine (h.toSameRun.brSkip _).bind fun u v hu hv huv => ?_
  have hdist : u.dist = v.dist := by rw [brSkip_frame hu, brSkip_frame hv]; exact h.dist
  have hmlen : u.mlen = v.mlen := by rw [brSkip_frame hu, brSkip_frame hv]; exact h.mlen
  rw [copy, copy, hdist, hmlen]
  exact SameRun.copyLoop { huv with }

theorem SameRun.matchDistance {s t : State} (h : SameRun s t) (ob lc : Nibble) :
    SameAnswer SameDistance (matchDistance (matchFields ob lc s)) (matchDistance (matchFields ob lc t)) := by
  have hpeek : brPeek ob.toNat (matchFields ob lc s) = brPeek ob.toNat (matchFields ob lc t) := h.brPeek_eq _
  rw [Machine.matchDistance, Machine.matchDistance, matchFields_ob, matchFields_ob, hpeek]
  refine .bind_same fun x => ?_
  exact .ok { h with ob := rfl, lc := rfl, dist := rfl }

theorem SameDistance.shortLength {s t : State} (h : SameDistance s t) :
    SameOperands (shortLength s) (shortLength t) :=
  { h with mlen := by rw [shortLength_mlen, shortLength_mlen, h.lc] }

theorem SameDistance.extByte {s t : State} (h : SameDistance s t) :
    SameAnswer SameOperands (extByte s) (extByte t) := by
  rw [Machine.extByte, Machine.extByte, h.reads, h.cursor]
  refine .bind_same fun e1 => ?_
  exact .ok { h with mlen := rfl, cursor := rfl }

theorem SameDistance.extWord {s t : State} (h : SameDistance s t) :
    SameAnswer SameOperands (extWord s) (extWord t) := by
  rw [Machine.extWord, Machine.extWord, h.reads2, h.cursor]
  refine .bind_same fun e2 => ?_
  exact .ok { h with mlen := rfl, cursor := rfl }

theorem SameDistance.longLength {s t : State} (h : SameDistance s t) :
    SameAnswer SameOperands (longLength s) (longLength t) := by
  refine h.extByte.bind fun u v _ _ huv => ?_
  rw [huv.mlen]
  split
  · exact huv.extWord
  · exact .ok huv

/-! ### The step -/

/-- The states agree on what the next step reads: BUILD and INIT have yet to write the window, and BUILD the
trie over a clear arena. -/
structure SameStage (s t : State) : Prop extends SameDecode s t where
  arena : s.busy = true → s.arena = t.arena
  run : s.phase = .token → SameRun s t

theorem SameRun.stage {s t : State} (h : SameRun s t) : SameStage s t :=
  { h with arena := fun _ => h.arena, run := fun _ => h }

/-- Two steps that answer states which agree, or are refused alike. -/
inductive SameOutcome : Host.Outcome State Fault Refusal → Host.Outcome State Fault Refusal → Prop where
  | next {s t : State} (h : SameStage s t) : SameOutcome (.next s) (.next t)
  | refused (r : Refusal) : SameOutcome (.refused r) (.refused r)

section
variable {s t : State}

theorem SameDecode.abort (h : SameDecode s t) (e : ErrClass) : SameStage (abort e s) (abort e t) :=
  { h with phase := rfl, errCode := rfl, out := rfl, arena := nofun, run := nofun }

theorem SameDecode.conclude (h : SameDecode s t) {x y : Except ErrClass State}
    (hxy : SameAnswer SameStage x y) : SameOutcome (conclude s x) (conclude t y) := by
  cases hxy with
  | ok hst => exact .next hst
  | error e => exact .next (h.abort e)

theorem SameRun.stages {x y : Except ErrClass State} (h : SameAnswer SameRun x y) :
    SameAnswer SameStage x y := by
  cases h with
  | ok h => exact .ok h.stage
  | error e => exact .error e

theorem SameRun.exec (h : SameRun s t) (i : Instr) : SameOutcome (exec i s) (exec i t) := by
  cases i with
  | lit b => exact h.conclude (SameRun.stages (h.outAppend b))
  | eos =>
    rw [exec_eos, exec_eos, h.cursor, h.inputLength]
    refine h.conclude ?_
    split
    · exact .ok { h with phase := rfl, arena := nofun, run := nofun }
    · exact .error _
  | matchTok ob lc =>
    rw [exec_matchTok, exec_matchTok]
    exact h.conclude (SameRun.stages ((h.matchDistance ob lc).bind fun u v _ _ huv =>
      huv.shortLength.finishMatch))
  | matchLong ob =>
    rw [exec_matchLong, exec_matchLong]
    exact h.conclude (SameRun.stages ((h.matchDistance ob 15).bind fun u v _ _ huv =>
      huv.longLength.bind fun u' v' _ _ huv' => huv'.finishMatch))

theorem SameWalk.execFetched (h : SameWalk s t) : SameOutcome (execFetched s) (execFetched t) := by
  have hword : fetchedWord s = fetchedWord t := by rw [fetchedWord, fetchedWord, h.arena, h.node]
  unfold Machine.execFetched
  rw [hword]
  cases decode (fetchedWord t) with
  | ok i => exact h.toSameRun.exec i
  | error e => cases e; exact .refused _

theorem SameRun.tokenStep (h : SameRun s t) : SameOutcome (tokenStep s) (tokenStep t) := by
  have hwalk := h.tdDecode
  unfold Machine.tokenStep
  generalize Machine.tdDecode s = x at hwalk ⊢
  generalize Machine.tdDecode t = y at hwalk ⊢
  cases hwalk with
  | ok huv => exact huv.execFetched
  | error e => exact .next (h.abort e)

theorem SameDecode.buildStep (h : SameDecode s t) (harena : s.arena = t.arena) :
    SameOutcome (buildStep s) (buildStep t) := by
  refine h.conclude ((h.builder harena).bind fun u v hu hv huv => .ok ?_)
  have hdecode : SameDecode { u with phase := .init } { v with phase := .init } := by
    rw [builder_frame hu, builder_frame hv]
    exact { h with phase := rfl }
  exact { hdecode with arena := fun _ => huv.arena, run := nofun }

theorem SameDecode.initStep (h : SameDecode s t) (harena : s.arena = t.arena) :
    SameOutcome (initStep s) (initStep t) :=
  h.conclude ((h.brInit harena).bind fun _ _ _ _ huv =>
    .ok (SameRun.stage { huv with phase := rfl }))

theorem SameDecode.busy_eq (h : SameDecode s t) : s.busy = t.busy := by
  rw [State.busy, State.status, State.busy, State.status, h.phase]

theorem SameStage.engineStep (h : SameStage s t) : SameOutcome (engineStep s) (engineStep t) := by
  have hphase := h.phase
  cases hbusy : s.busy with
  | false =>
    rw [engineStep_of_idle hbusy, engineStep_of_idle (h.busy_eq ▸ hbusy)]
    exact .next h
  | true =>
    have harena := h.arena hbusy
    obtain hs | hs | hs := busy_iff.1 hbusy
    · rw [engineStep_of_build hs, engineStep_of_build (hphase ▸ hs)]
      exact h.buildStep harena
    · rw [engineStep_of_init hs, engineStep_of_init (hphase ▸ hs)]
      exact h.initStep harena
    · rw [engineStep_of_token hs, engineStep_of_token (hphase ▸ hs)]
      exact (h.run hs).tokenStep

/-! ### START and the run (44 R200, R210) -/

theorem SameDecode.startChecks (h : SameDecode s t) (harena : s.arena = t.arena)
    (hbuild : s.phase = .build) : SameAnswer SameStage (startChecks s) (startChecks t) := by
  rw [Machine.startChecks, Machine.startChecks, h.inputLength, h.tableReadable_eq]
  split
  · exact .error _
  · split
    · exact .error _
    · exact .ok { h with arena := fun _ => harena, run := fun hs => by rw [hbuild] at hs; cases hs }

theorem SameDecode.observe_eq (h : SameDecode s t) : s.observe = t.observe := by
  rw [State.observe, State.observe, hostReadOut, hostReadOut, State.status, State.status, h.phase, h.errCode,
    h.out]

end

/-- The observation of a run after a first step. -/
def observeAfter (n : Nat) (o : Host.Outcome State Fault Refusal) : Option Observation :=
  match o with
  | .next t => observeRun n t
  | .fault _ => none
  | .refused _ => none

theorem observeRun_succ (n : Nat) (s : State) : observeRun (n + 1) s = observeAfter n (step s) := by
  have hcore : core.step s = step s := rfl
  simp only [observeRun, Host.Core.run, hcore]
  cases step s <;> rfl

theorem SameOutcome.observeAfter_eq {n : Nat} {x y : Host.Outcome State Fault Refusal} (h : SameOutcome x y)
    (hn : ∀ s t, SameStage s t → observeRun n s = observeRun n t) : observeAfter n x = observeAfter n y := by
  cases h with
  | next hst => exact hn _ _ hst
  | refused r => rfl

theorem SameStage.observeRun_eq {n : Nat} {s t : State} (h : SameStage s t) :
    observeRun n s = observeRun n t := by
  induction n generalizing s t with
  | zero => exact congrArg some h.observe_eq
  | succ n ih =>
    rw [observeRun_succ, observeRun_succ, step_of_host_nil h.host.1, step_of_host_nil h.host.2]
    exact h.engineStep.observeAfter_eq fun _ _ => ih

/-- Settles O58: the latched decodes agree on all that START's checks and BUILD read, and every step of the
engine keeps the agreement. -/
theorem resultDependsOnlyOnTheRegion : Obligations.ResultDependsOnlyOnTheRegion := by
  intro s1 s2 o1 o2 l1 l2 len hidle1 hidle2 hcap hreads n
  have hlatched : SameDecode (startLatch o1 len l1 { s1 with host := [] })
      (startLatch o2 len l2 { s2 with host := [] }) :=
    { host := ⟨rfl, rfl⟩, phase := rfl, errCode := rfl, out := rfl, outCap := hcap, inputLength := rfl,
      reads := funext hreads }
  rw [observeRun_succ, observeRun_succ, step_of_start (s := { s1 with host := _ }) rfl hidle1,
    step_of_start (s := { s2 with host := _ }) rfl hidle2]
  exact (hlatched.conclude (hlatched.startChecks rfl rfl)).observeAfter_eq fun _ _ h => h.observeRun_eq

end Sys2Proof.Machine
end

section
/-! PROOFS. The error codes and the values of STATUS, and the engine that never stops (60 R220, R223). -/
namespace Sys2Proof.Machine

/-- Settles O43: each code and each value of STATUS is a case of its definition. -/
theorem codesOfErrorsAndStatus : Obligations.CodesOfErrorsAndStatus := ⟨rfl, rfl⟩

/-- Settles O56: an idle engine waits, BUILD and INIT complete or fail, and in TOKEN a walkable trie gives a
word that decodes to a token, each of which answers a next state. -/
theorem engineNeverStops : Obligations.EngineNeverStops := fun _ => engineStep_answers

end Sys2Proof.Machine
end

section
/-! PROOFS. The host's store and the running region (70 R253), and what power-on reset leaves (70 R250). -/
namespace Sys2Proof.Machine

theorem inRegion_iff {s : State} {a : Nat} :
    inRegion s a = true ↔
      s.offset ≤ a ∧ a < s.offset + min s.inputLength.toNat (s.srcLen - s.offset) := by
  simp only [inRegion, Bool.and_eq_true, decide_eq_true_eq]

/-- What the host must not store while a decode runs (70 R253): another byte in its region. -/
def ChangesRunningRegion (s : State) (a : Nat) (b : Byte) : Prop :=
  s.busy = true ∧ inRegion s a = true ∧ Memory.read s.src a ≠ b

theorem changesRunningRegion_iff {s : State} {a : Nat} {b : Byte} :
    ChangesRunningRegion s a b ↔
      (s.busy && inRegion s a && (Memory.read s.src a != b)) = true := by
  simp only [ChangesRunningRegion, Bool.and_eq_true, bne_iff_ne, and_assoc]

theorem hostStore_of_changesRunningRegion {s : State} {a : Nat} {b : Byte}
    (h : ChangesRunningRegion s a b) : hostStore a b s = .refused .regionChangedWhileBusy :=
  if_pos (changesRunningRegion_iff.1 h)

theorem hostStore_of_not_changesRunningRegion {s : State} {a : Nat} {b : Byte}
    (h : ¬ ChangesRunningRegion s a b) :
    hostStore a b s = .next { s with src := Memory.write s.src a b } :=
  if_neg (mt changesRunningRegion_iff.2 h)

/-- Settles O29: the second clause's four cases are those in which the store changes no running region. -/
theorem hostStoresAreRefusedInTheRunningRegion : Obligations.HostStoresAreRefusedInTheRunningRegion := by
  intro s a b rest hmem hhost
  have hstep : step s = hostStore a b { s with host := rest } := step_of_host_cons hhost
  refine ⟨fun hbusy hlow hhigh hchange => ?_, fun hallowed => ?_⟩
  · rw [hstep]
    exact hostStore_of_changesRunningRegion ⟨hbusy, inRegion_iff.2 ⟨hlow, hhigh⟩, hchange⟩
  · have hkeeps : ¬ ChangesRunningRegion { s with host := rest } a b := by
      rintro ⟨hbusy, hin, hchange⟩
      obtain ⟨hlow, hhigh⟩ := inRegion_iff.1 hin
      obtain hidle | hbelow | habove | hsame := hallowed
      · exact Bool.false_ne_true (hidle.symm.trans hbusy)
      · exact Nat.not_le.2 hbelow hlow
      · exact Nat.not_le.2 hhigh habove
      · exact hchange hsame
    exact ⟨_, hstep.trans (hostStore_of_not_changesRunningRegion hkeeps), rfl,
      Memory.read_write_self a b hmem.1, fun _ hx => Memory.read_write_other b hx⟩

/-- Settles O45: each field is one that `State.reset` gives. -/
theorem resetLeavesAnIdleEngine : Obligations.ResetLeavesAnIdleEngine := ⟨rfl, rfl, rfl, rfl, rfl⟩

/-- Settles O55: reset's lists are empty and its numbers 0, and what the invariants ask of a running decode
or of a failure does not bear on an idle engine. -/
theorem resetMeetsTheInvariants : Obligations.ResetMeetsTheInvariants := by
  have hidle : State.reset.phase = .idle := rfl
  have hbusy : State.reset.busy = false := rfl
  have hwindow : WindowInv State.reset := by simp [WindowInv, hidle]
  have herr : ErrCodeInv State.reset := errCodeInv_of_zero (by simp [hidle]) rfl
  have hinput : InputInv State.reset := by simp [InputInv, hbusy]
  have harena : ArenaInv State.reset := by simp [ArenaInv, hidle]
  have hfits : State.reset.FitsOffsetWidth := ⟨Nat.two_pow_pos _, Nat.two_pow_pos _⟩
  exact ⟨reset_memory_wf, hwindow, herr, outCapInv_of_nil rfl, hinput, harena, hfits,
    List.forall_mem_nil _⟩

end Sys2Proof.Machine
end
